-- ==== Sys2Proof/Word.lean ====
section
/-! DEFINITION. The words the block moves: bytes, the 64-bit port words, and the seven-byte frame
(00_scope.md R8, R15; 20_memory.md R43, R48). -/

namespace Sys2Proof

/-- `u8`: every datum the block moves is a byte (20_memory.md R48). -/
abbrev Byte := BitVec 8

/-- A word of the command port (30_encoding.md R59, R60). -/
abbrev CommandWord := BitVec 64

/-- A word of the response port (30_encoding.md R59, R67). -/
abbrev ResponseWord := BitVec 64

/-- The `DATA` field of a response, D0..D6 (30_encoding.md R67). -/
abbrev Data := BitVec 56

/-- A frame body: frame bytes 1 to 5 in wire order (00_scope.md R18, 20_memory.md R43). -/
structure Body where
  unitAddress : Byte
  command1 : Byte
  command2 : Byte
  data1 : Byte
  data2 : Byte
  deriving DecidableEq, Repr

/-- A frame: `[sync, unitAddress, command1, command2, data1, data2, checksum]` (20_memory.md R43). -/
structure Frame where
  sync : Byte
  body : Body
  checksum : Byte
  deriving DecidableEq, Repr

/-- A frame buffer: entries 0..5, numbered by frame index; the checksum byte is never stored
(10_state.md R31). -/
abbrev FrameBuf := Vector Byte 6

end Sys2Proof
end

