-- ==== Sys2Proof/Syntax.lean ====
section
/-! DEFINITION. The commands of the block: one constructor per row of spec/opcode_table.json
(30_encoding.md R63). -/

namespace Sys2Proof

/-- A command, with exactly the operand bytes that 30_encoding.md R62 says the operation reads. The
bytes R62 marks "ignored" are no part of the command. -/
inductive Instr where
  /-- NOP (43_control.md R140) -/
  | nop
  /-- ENCODE: build a frame from a body (40_frame_ops.md R80) -/
  | encodeFrame (x : Body)
  /-- DECODE: check a received frame (40_frame_ops.md R81) -/
  | decodeFrame (f : Frame)
  /-- TX_START: load a body into the serializer (41_serializer.md R100) -/
  | txStart (x : Body)
  /-- TX_NEXT: emit the next byte of the frame (41_serializer.md R101) -/
  | txNext
  /-- RX_BYTE: accept one received byte (42_deserializer.md R120) -/
  | rxByte (b : Byte)
  /-- RX_CLEAR: drop a partial received frame (42_deserializer.md R121) -/
  | rxClear
  /-- An illegal command word, kept whole (30_encoding.md R64, 43_control.md R141) -/
  | illegal (word : CommandWord)
  deriving DecidableEq, Repr

end Sys2Proof
end

