-- ==== Sys2Proof/WellFormed.lean ====
section
/-! DEFINITION. Which terms of Instr stand for a command word. -/

namespace Sys2Proof

/-- "A command word is illegal when `OP` = 111, or when `RSV` is not 0, or both" (30_encoding.md R64):
`OP` is bits [63:61] and `RSV` bits [60:56] (R60). -/
def illegalWord (w : CommandWord) : Bool :=
  decide (w.extractLsb' 61 3 = 0b111#3) || decide (w.extractLsb' 56 5 ≠ 0#5)

/-- Every operand is a byte by its type, so the one check is that an `illegal` command holds a word
that is illegal. -/
def Instr.wellFormed : Instr → Bool
  | .nop => true
  | .encodeFrame _ => true
  | .decodeFrame _ => true
  | .txStart _ => true
  | .txNext => true
  | .rxByte _ => true
  | .rxClear => true
  | .illegal w => illegalWord w

end Sys2Proof
end

