-- ==== Sys2Proof/Decode.lean ====
section
/-! DEFINITION. From a command word to a command (30_encoding.md R60 to R66), the opcode table's rows,
and the encoder (R70). Decoding is total: every word is one of the seven operations or illegal. -/

namespace Sys2Proof

/-! ## Fields of the command word (30_encoding.md R60) -/

/-- `OP` = word[63:61]. -/
def opField (w : CommandWord) : BitVec 3 := w.extractLsb' 61 3

/-- `RSV` = word[60:56]. -/
def rsvField (w : CommandWord) : BitVec 5 := w.extractLsb' 56 5

/-- Operand byte `Bk = word[55 - 8k : 48 - 8k]`. -/
def operandByte (w : CommandWord) (k : Fin 7) : Byte := w.extractLsb' (48 - 8 * k.val) 8

/-- The body operands of ENCODE and TX_START are B1..B5 (30_encoding.md R62). -/
def bodyOperands (w : CommandWord) : Body :=
  { unitAddress := operandByte w 1
    command1 := operandByte w 2
    command2 := operandByte w 3
    data1 := operandByte w 4
    data2 := operandByte w 5 }

/-- The operands of DECODE are B0..B6, the frame in wire order (30_encoding.md R62). -/
def frameOperands (w : CommandWord) : Frame :=
  { sync := operandByte w 0
    body := bodyOperands w
    checksum := operandByte w 6 }

/-! ## Decoding (30_encoding.md R65) -/

/-- The decoder "tests `RSV` first and then `OP`". -/
def decode (w : CommandWord) : Instr :=
  if rsvField w ≠ 0#5 then .illegal w
  else
    match opField w with
    | 0b000#3 => .nop
    | 0b001#3 => .encodeFrame (bodyOperands w)
    | 0b010#3 => .decodeFrame (frameOperands w)
    | 0b011#3 => .txStart (bodyOperands w)
    | 0b100#3 => .txNext
    | 0b101#3 => .rxByte (operandByte w 6)
    | 0b110#3 => .rxClear
    | _ => .illegal w

/-! ## The opcode table (30_encoding.md R63) -/

/-- The mnemonics of the table; `ILLEGAL` is the reserved row `OP` = 111. -/
inductive Mnemonic where
  | NOP | ENCODE | DECODE | TX_START | TX_NEXT | RX_BYTE | RX_CLEAR | ILLEGAL
  deriving DecidableEq, Repr

/-- The mnemonic of a command. -/
def Instr.mnemonic : Instr → Mnemonic
  | .nop => .NOP
  | .encodeFrame _ => .ENCODE
  | .decodeFrame _ => .DECODE
  | .txStart _ => .TX_START
  | .txNext => .TX_NEXT
  | .rxByte _ => .RX_BYTE
  | .rxClear => .RX_CLEAR
  | .illegal _ => .ILLEGAL

/-- A row of the opcode table. -/
structure OpcodeRow where
  mnemonic : Mnemonic
  bits : CommandWord
  mask : CommandWord
  deriving DecidableEq, Repr

/-- "A word selects row `r` when `(word & mask_r) = match_r`." -/
def OpcodeRow.selects (r : OpcodeRow) (w : CommandWord) : Bool := decide (w &&& r.mask = r.bits)

/-- The eight rows, match and mask as R63 prints them. -/
def opcodeRows : List OpcodeRow :=
  [ { mnemonic := .NOP,      bits := 0x0000000000000000, mask := 0xFF00000000000000 },
    { mnemonic := .ENCODE,   bits := 0x2000000000000000, mask := 0xFF00000000000000 },
    { mnemonic := .DECODE,   bits := 0x4000000000000000, mask := 0xFF00000000000000 },
    { mnemonic := .TX_START, bits := 0x6000000000000000, mask := 0xFF00000000000000 },
    { mnemonic := .TX_NEXT,  bits := 0x8000000000000000, mask := 0xFF00000000000000 },
    { mnemonic := .RX_BYTE,  bits := 0xA000000000000000, mask := 0xFF00000000000000 },
    { mnemonic := .RX_CLEAR, bits := 0xC000000000000000, mask := 0xFF00000000000000 },
    { mnemonic := .ILLEGAL,  bits := 0xE000000000000000, mask := 0xE000000000000000 } ]

/-- Two rows no word selects both of: their matches differ on a bit both masks cover. -/
def OpcodeRow.disjoint (r q : OpcodeRow) : Bool := decide ((r.bits ^^^ q.bits) &&& r.mask &&& q.mask ≠ 0)

/-! ## Encoding (30_encoding.md R70) -/

/-- `b << n` in a 64-bit word. -/
def shifted (b : Byte) (n : Nat) : CommandWord := b.setWidth 64 <<< n

/-- `a<<40 | c1<<32 | c2<<24 | d1<<16 | d2<<8`. -/
def bodyBits (x : Body) : CommandWord :=
  shifted x.unitAddress 40 ||| shifted x.command1 32 ||| shifted x.command2 24
    ||| shifted x.data1 16 ||| shifted x.data2 8

/-- The word of a command by the formulas of R70: 0 in every ignored byte and in `RSV` (R69). The
assembler has no spelling for an illegal word, which stands for itself. -/
def encode : Instr → CommandWord
  | .nop => 0x0000000000000000
  | .encodeFrame x => 0x2000000000000000 ||| bodyBits x
  | .decodeFrame f =>
    0x4000000000000000 ||| shifted f.sync 48 ||| bodyBits f.body ||| shifted f.checksum 0
  | .txStart x => 0x6000000000000000 ||| bodyBits x
  | .txNext => 0x8000000000000000
  | .rxByte b => 0xA000000000000000 ||| shifted b 0
  | .rxClear => 0xC000000000000000
  | .illegal w => w

/-- The bits of a command's word that the block looks at: `OP`, `RSV` and the operand bytes R62 does
not mark "ignored". -/
def Instr.usedBits : Instr → CommandWord
  | .nop => 0xFF00000000000000
  | .encodeFrame _ => 0xFF00FFFFFFFFFF00
  | .decodeFrame _ => 0xFFFFFFFFFFFFFFFF
  | .txStart _ => 0xFF00FFFFFFFFFF00
  | .txNext => 0xFF00000000000000
  | .rxByte _ => 0xFF000000000000FF
  | .rxClear => 0xFF00000000000000
  | .illegal _ => 0xFFFFFFFFFFFFFFFF

/-! ## The host's view of the opcode table -/

/-- The command word whose low `nbits` bits are `w` and whose other bits are 0. -/
def tableWord (nbits w : Nat) : CommandWord := BitVec.ofNat 64 (w % 2 ^ nbits)

/-- What the decoder reads from a table word. Every command word is 64 bits long (30_encoding.md R66)
and decoding is total (R65), so it always answers. -/
def decodeTableWord (nbits w : Nat) : Option Instr := some (decode (tableWord nbits w))

end Sys2Proof
end

