-- ==== Sys2Proof/Config.lean ====
section
/-! DEFINITION. The parameters of an instance (00_scope.md R9) and the free values the spec leaves
open (10_state.md R27). -/

namespace Sys2Proof

/-- The two protocol variants the spec names (00_scope.md R2, R10). -/
inductive Variant where
  /-- PELCO-D, this hardware. -/
  | d
  /-- The variant the source calls P: the same frame with another sync byte. -/
  | p
  deriving DecidableEq, Repr

/-- `SYNC_BYTE` of a variant: 0xFF for D, 0xA0 for P (00_scope.md R9, R10). -/
def Variant.syncByte : Variant → Byte
  | .d => 0xFF
  | .p => 0xA0

/-- The parameters that are fixed for the life of an instance (00_scope.md R9, R10, R11). -/
structure Config where
  /-- selects `SYNC_BYTE` -/
  variant : Variant
  /-- `SYNC_CHECK`: whether decode compares the received sync byte with `SYNC` -/
  syncCheck : Bool
  deriving DecidableEq, Repr

/-- `SYNC_BYTE` of an instance. -/
def Config.syncByte (c : Config) : Byte := c.variant.syncByte

/-- The values for this hardware: `SYNC_BYTE` = 0xFF, `SYNC_CHECK` = false (00_scope.md R9). -/
def Config.pdfc1 : Config := { variant := .d, syncCheck := false }

/-- Constructing an instance: a `SYNC_BYTE` other than 0xFF or 0xA0 is refused (00_scope.md R10). -/
def Config.construct (syncByte : Byte) (syncCheck : Bool) : Option Config :=
  if syncByte = 0xFF then some { variant := .d, syncCheck := syncCheck }
  else if syncByte = 0xA0 then some { variant := .p, syncCheck := syncCheck }
  else none

/-- FREE VALUE (log 3). The byte a buffer entry holds after a reset event, which the spec leaves
unspecified (10_state.md R27, R28). It has no body: nothing can be proved of its value. The argument
counts the free values taken so far. -/
opaque Config.freeByte : Nat → Byte

end Sys2Proof
end

