-- ==== Sys2Proof/Machine/State.lean ====
section
/-! DEFINITION. The state of the block (10_state.md R20), its ports (30_encoding.md R59), the status
codes' names (60_exceptions.md R150), and the state after reset (10_state.md R28). -/

namespace Sys2Proof.Machine

/-- The status of a response (60_exceptions.md R150). Codes 7..15 are reserved and have no name. -/
inductive Status where
  | ok
  | rxPending
  | checksumMismatch
  | syncMismatch
  | txBusy
  | txIdle
  | illegalOp
  deriving DecidableEq, Repr

/-- The serializer's state: `TX_BUF`, `TX_IDX`, `TX_ACC`, `TX_ACTIVE` (10_state.md R20, S1 to S4). -/
structure TxChannel where
  buf : FrameBuf
  idx : BitVec 3
  acc : Byte
  active : Bool
  deriving DecidableEq, Repr

/-- The deserializer's state: `RX_BUF`, `RX_IDX`, `RX_ACC` (10_state.md R20, S5 to S7). -/
structure RxChannel where
  buf : FrameBuf
  idx : BitVec 3
  acc : Byte
  deriving DecidableEq, Repr

/-- What the host can do to the block (30_encoding.md R59, 60_exceptions.md R166). -/
inductive HostEvent where
  /-- one command word on the command port -/
  | command (w : CommandWord)
  /-- the reset event (70_reset_and_hazards.md R180) -/
  | reset
  deriving DecidableEq, Repr

/-- The machine. `sync`, `tx` and `rx` are the spec's complete architectural state (10_state.md R20);
`config` holds the parameters fixed at construction (00_scope.md R9); `inputs` and `responses` are
the ports; `freeCount` is the model's own. -/
structure State where
  /-- `SYNC_BYTE` and `SYNC_CHECK`; no step writes them (log 4) -/
  config : Config
  /-- `SYNC` (S0), read-only (10_state.md R21) -/
  sync : Byte
  /-- the serializer -/
  tx : TxChannel
  /-- the deserializer -/
  rx : RxChannel
  /-- the events the host has offered and the block has not taken, oldest first (log 1) -/
  inputs : List HostEvent
  /-- the response words the block has driven, oldest first (log 1) -/
  responses : List ResponseWord
  /-- how many free values have been taken (log 3); no field of the spec's -/
  freeCount : Nat
  deriving DecidableEq, Repr

/-- The block has no fault: "No error is fatal" and every error is a status code in a response
(60_exceptions.md R150, R154, R155). So the type is empty: nobody raises a fault. -/
inductive Fault
  deriving DecidableEq, Repr

/-- Why a step is refused. -/
inductive Refusal where
  /-- Raised by a refused arm of `exec` alone, for an instruction that has no meaning yet; no arm is
  refused. Safe: the machine stops where the hardware goes on. -/
  | notModelled (mnemonic : String)
  deriving DecidableEq, Repr

/-- A buffer of zeros: the contents State.reset gives `TX_BUF` and `RX_BUF`, which the spec leaves
unspecified (10_state.md R27). DESIGN CHOICE, log 2. -/
def zeroBuf : FrameBuf := #v[0, 0, 0, 0, 0, 0]

/-- A new instance, which "starts in the reset state" (70_reset_and_hazards.md R181, 10_state.md R28),
with nothing on its ports. -/
def State.construct (c : Config) : State :=
  { config := c
    sync := c.syncByte
    tx := { buf := zeroBuf, idx := 0, acc := 0, active := false }
    rx := { buf := zeroBuf, idx := 0, acc := 0 }
    inputs := []
    responses := []
    freeCount := 0 }

/-- This hardware right after reset. -/
def State.reset : State := State.construct Config.pdfc1

end Sys2Proof.Machine
end

