-- ==== Sys2Proof/Machine/Flags.lean ====
section
/-! DEFINITION. The block has no flags (10_state.md R24); what stands in their place is the status of a
response. This file holds the status codes (60_exceptions.md R150) and the layout of the response
word (30_encoding.md R67), with the host's readers of its fields. -/

namespace Sys2Proof.Machine

/-- `code(E)` (60_exceptions.md R150). -/
def Status.code : Status → BitVec 4
  | .ok => 0
  | .rxPending => 1
  | .checksumMismatch => 2
  | .syncMismatch => 3
  | .txBusy => 4
  | .txIdle => 5
  | .illegalOp => 6

/-- The "kind" column of R150: OK and RX_PENDING are successes, the others errors. -/
def Status.isError : Status → Bool
  | .ok => false
  | .rxPending => false
  | .checksumMismatch => true
  | .syncMismatch => true
  | .txBusy => true
  | .txIdle => true
  | .illegalOp => true

/-- The status a code names; a reserved code 7..15 is refused (93_implementation_defined.md I7). -/
def Status.ofCode (c : BitVec 4) : Option Status :=
  match c with
  | 0#4 => some .ok
  | 1#4 => some .rxPending
  | 2#4 => some .checksumMismatch
  | 3#4 => some .syncMismatch
  | 4#4 => some .txBusy
  | 5#4 => some .txIdle
  | 6#4 => some .illegalOp
  | _ => none

/-- The response word: `STATUS` at [63:60], zero at [59:56], `DATA` at [55:0] (30_encoding.md R67). -/
def responseWord (st : Status) (d : Data) : ResponseWord := st.code ++ 0#4 ++ d

/-- `STATUS` = rsp[63:60]. -/
def statusField (r : ResponseWord) : BitVec 4 := r.extractLsb' 60 4

/-- The field that is "always 0", rsp[59:56]. -/
def zeroField (r : ResponseWord) : BitVec 4 := r.extractLsb' 56 4

/-- `DATA` = rsp[55:0]. -/
def dataField (r : ResponseWord) : Data := r.extractLsb' 0 56

/-- Result byte `Dk = rsp[55 - 8k : 48 - 8k]`. -/
def dataByte (r : ResponseWord) (k : Fin 7) : Byte := r.extractLsb' (48 - 8 * k.val) 8

end Sys2Proof.Machine
end

