-- ==== Sys2Proof/Machine/Operands.lean ====
section
/-! DEFINITION. The one operand form, the byte (30_encoding.md R61), and the places bytes go: a frame's
bytes by index (20_memory.md R43), the 56-bit `DATA` field (R44), and the two frame buffers
(10_state.md R31). -/

namespace Sys2Proof.Machine

/-- Frame byte `k`, index 0 first (20_memory.md R43). -/
def frameByte (f : Frame) (k : Fin 7) : Byte :=
  match k with
  | 0 => f.sync
  | 1 => f.body.unitAddress
  | 2 => f.body.command1
  | 3 => f.body.command2
  | 4 => f.body.data1
  | 5 => f.body.data2
  | 6 => f.checksum

/-- `DATA` holding a frame: byte 0 is the most significant byte, so the field written in hex reads as
the frame in wire order (20_memory.md R44). -/
def frameData (f : Frame) : Data :=
  f.sync ++ f.body.unitAddress ++ f.body.command1 ++ f.body.command2 ++ f.body.data1
    ++ f.body.data2 ++ f.checksum

/-- `DATA` holding one emitted byte in D6: `zext_56(b)` (30_encoding.md R68, 41_serializer.md R101). -/
def byteData (b : Byte) : Data := b.setWidth 56

/-- `TX_BUF` as TX_START fills it: sync, then the body (41_serializer.md R100). -/
def bufOf (sync : Byte) (x : Body) : FrameBuf :=
  #v[sync, x.unitAddress, x.command1, x.command2, x.data1, x.data2]

/-- The frame of a full `RX_BUF` and the checksum byte on arrival:
`[RX_BUF[0], ..., RX_BUF[5], b]` (42_deserializer.md R120). -/
def frameOf (buf : FrameBuf) (b : Byte) : Frame :=
  { sync := buf[0]
    body :=
      { unitAddress := buf[1]
        command1 := buf[2]
        command2 := buf[3]
        data1 := buf[4]
        data2 := buf[5] }
    checksum := b }

end Sys2Proof.Machine
end

