-- ==== Sys2Proof/Machine/Ops.lean ====
section
/-! DEFINITION. The operations the meanings share: the checksum, driving the response port, raising an
error (the block has no other exception entry, and no return: 60_exceptions.md R154, R155), the
moves of the two channels, and the reset event. -/

namespace Sys2Proof.Machine

/-- What executing a command answers. -/
abbrev Result := Host.Outcome State Fault Refusal

/-! ## The checksum -/

/-- `(a + b) mod 256` (00_scope.md R15): how an 8-bit accumulator takes a byte (40_frame_ops.md R82). -/
def accumulate (acc b : Byte) : Byte := BitVec.ofNat 8 (acc.toNat + b.toNat)

/-- `(a + c1 + c2 + d1 + d2) mod 256` (00_scope.md R17), from the whole sum. -/
def checksum (x : Body) : Byte :=
  BitVec.ofNat 8
    (x.unitAddress.toNat + x.command1.toNat + x.command2.toNat + x.data1.toNat + x.data2.toNat)

/-! ## The response port (00_scope.md R16) -/

/-- `Respond(status, data)`: one more word on the response port. -/
def respond (st : Status) (d : Data) (s : State) : State :=
  { s with responses := s.responses ++ [responseWord st d] }

/-- `raise E` means `Respond(code(E), 0)`; "It changes no state unless the rule says so before the
`raise`." -/
def raise (e : Status) (s : State) : State := respond e 0 s

/-- The verdict on a whole frame, shared by DECODE and the seventh RX_BYTE (40_frame_ops.md R81,
42_deserializer.md R120): `acc` is the sum of the body bytes mod 256. The checksum is tested before
the sync byte (60_exceptions.md R152), and the sync byte only when `SYNC_CHECK`. -/
def answerFrame (acc : Byte) (f : Frame) (s : State) : State :=
  if acc ≠ f.checksum then raise .checksumMismatch s
  else if s.config.syncCheck ∧ f.sync ≠ s.sync then raise .syncMismatch s
  else respond .ok (frameData f) s

/-! ## The serializer's moves (41_serializer.md R100, R101) -/

/-- TX_START on an idle channel: the body behind the sync byte, nothing emitted yet. -/
def txLoad (sync : Byte) (x : Body) : TxChannel :=
  { buf := bufOf sync x, idx := 0, acc := 0, active := true }

/-- The byte TX_NEXT emits: `TX_BUF[i]` for i = 0..5, then the accumulator. -/
def txByte (c : TxChannel) : Byte :=
  if h : c.idx.toNat ≤ 5 then c.buf[c.idx.toNat]'(by omega) else c.acc

/-- The channel after TX_NEXT has emitted: bytes 1..5 are accumulated, byte 6 clears the channel to
idle. -/
def txAdvance (c : TxChannel) : TxChannel :=
  if c.idx.toNat ≤ 5 then
    { c with
      idx := c.idx + 1
      acc := if 1 ≤ c.idx.toNat then accumulate c.acc (txByte c) else c.acc }
  else { c with active := false, idx := 0, acc := 0 }

/-! ## The deserializer's moves (42_deserializer.md R120, R121) -/

/-- RX_BYTE at index 0..5: the byte is stored, and accumulated from index 1 on. -/
def rxStore (c : RxChannel) (b : Byte) : RxChannel :=
  if h : c.idx.toNat ≤ 5 then
    { buf := c.buf.set c.idx.toNat b (by omega)
      idx := c.idx + 1
      acc := if 1 ≤ c.idx.toNat then accumulate c.acc b else c.acc }
  else c

/-- `RX_IDX <- 0; RX_ACC <- 0`; `RX_BUF` keeps its bytes. -/
def rxRestart (c : RxChannel) : RxChannel := { c with idx := 0, acc := 0 }

/-! ## The reset event (70_reset_and_hazards.md R180, 10_state.md R28) -/

/-- Six free bytes, numbered from `n` (log 3). -/
def freeBuf (n : Nat) : FrameBuf :=
  #v[Config.freeByte n, Config.freeByte (n + 1), Config.freeByte (n + 2),
     Config.freeByte (n + 3), Config.freeByte (n + 4), Config.freeByte (n + 5)]

/-- Both channels idle and empty, `SYNC` unchanged, no response word. What the buffers hold is
unspecified (R27): twelve free values. -/
def resetEvent (s : State) : State :=
  { s with
    tx := { buf := freeBuf s.freeCount, idx := 0, acc := 0, active := false }
    rx := { buf := freeBuf (s.freeCount + 6), idx := 0, acc := 0 }
    freeCount := s.freeCount + 12 }

/-- The block takes the event the host offered first. -/
def takeInput (s : State) : State := { s with inputs := s.inputs.tail }

end Sys2Proof.Machine
end

