-- ==== Sys2Proof/Machine/Control.lean ====
section
/-! DEFINITION. NOP and the illegal command words (43_control.md). -/

namespace Sys2Proof.Machine

/-- NOP (R140): `Respond(OK, 0)`. -/
def execNop (s : State) : Result := .next (respond .ok 0 s)

/-- An illegal command word (R141): `raise ILLEGAL_OP`, no state changes. -/
def execIllegal (s : State) : Result := .next (raise .illegalOp s)

end Sys2Proof.Machine
end

