-- ==== Sys2Proof/Machine/Deserializer.lean ====
section
/-! DEFINITION. The deserializer: RX_BYTE and RX_CLEAR (42_deserializer.md). -/

namespace Sys2Proof.Machine

/-- RX_BYTE (R120): bytes 0..5 are stored and answered RX_PENDING; the next is the checksum byte, at
which "the channel resets in every outcome" before the verdict on the frame is answered. -/
def execRxByte (b : Byte) (s : State) : Result :=
  if s.rx.idx.toNat ≤ 5 then .next (respond .rxPending 0 { s with rx := rxStore s.rx b })
  else .next (answerFrame s.rx.acc (frameOf s.rx.buf b) { s with rx := rxRestart s.rx })

/-- RX_CLEAR (R121): drop a partial frame. -/
def execRxClear (s : State) : Result :=
  .next (respond .ok 0 { s with rx := rxRestart s.rx })

end Sys2Proof.Machine
end

