-- ==== Sys2Proof/Machine/FrameOps.lean ====
section
/-! DEFINITION. The frame-level operations ENCODE and DECODE (40_frame_ops.md). They read `SYNC` and
write no state (10_state.md R30). -/

namespace Sys2Proof.Machine

/-- The frame ENCODE builds: `[SYNC, a, c1, c2, d1, d2, cs]` (40_frame_ops.md R80). -/
def encodedFrame (sync : Byte) (x : Body) : Frame :=
  { sync := sync, body := x, checksum := checksum x }

/-- ENCODE (R80): always OK, with the frame. -/
def execEncodeFrame (x : Body) (s : State) : Result :=
  .next (respond .ok (frameData (encodedFrame s.sync x)) s)

/-- DECODE (R81): the body sum is taken from the frame itself. -/
def execDecodeFrame (f : Frame) (s : State) : Result :=
  .next (answerFrame (checksum f.body) f s)

end Sys2Proof.Machine
end

