-- ==== Sys2Proof/Machine/Serializer.lean ====
section
/-! DEFINITION. The serializer: TX_START and TX_NEXT (41_serializer.md). -/

namespace Sys2Proof.Machine

/-- TX_START (R100): TX_BUSY while a frame is in flight, else the body is loaded. -/
def execTxStart (x : Body) (s : State) : Result :=
  if s.tx.active then .next (raise .txBusy s)
  else .next (respond .ok 0 { s with tx := txLoad s.sync x })

/-- TX_NEXT (R101): TX_IDLE when no frame is loaded, else the next byte in D6. -/
def execTxNext (s : State) : Result :=
  if s.tx.active then .next (respond .ok (byteData (txByte s.tx)) { s with tx := txAdvance s.tx })
  else .next (raise .txIdle s)

end Sys2Proof.Machine
end

