-- ==== Sys2Proof/Machine/Dispatch.lean ====
section
/-! DEFINITION. One arm per constructor of Instr: which meaning runs. -/

namespace Sys2Proof.Machine

def exec (i : Instr) (s : State) : Host.Outcome State Fault Refusal :=
  match i with
  | .nop => Sys2Proof.Machine.execNop s
  | .encodeFrame x => Sys2Proof.Machine.execEncodeFrame x s
  | .decodeFrame f => Sys2Proof.Machine.execDecodeFrame f s
  | .txStart x => Sys2Proof.Machine.execTxStart x s
  | .txNext => Sys2Proof.Machine.execTxNext s
  | .rxByte b => Sys2Proof.Machine.execRxByte b s
  | .rxClear => Sys2Proof.Machine.execRxClear s
  | .illegal _ => Sys2Proof.Machine.execIllegal s

end Sys2Proof.Machine
end

