-- ==== Sys2Proof/Machine/Step.lean ====
section
/-! DEFINITION. One step of the machine: the block takes the host's next event and performs it whole
(20_memory.md R50, R53). The block fetches nothing (R56): the command port is where its next
operation comes from. -/

namespace Sys2Proof.Machine

/-- A command word is decoded and executed; a reset event resets the state, between operations and
never during one (70_reset_and_hazards.md R180); with no event offered nothing happens (log 5). -/
def step (s : State) : Host.Outcome State Fault Refusal :=
  match s.inputs with
  | [] => .next s
  | .command w :: _ => exec (decode w) (takeInput s)
  | .reset :: _ => .next (resetEvent (takeInput s))

/-- The host offers a command word ahead of everything it has offered so far. -/
def State.offerFirst (s : State) (w : CommandWord) : State :=
  { s with inputs := .command w :: s.inputs }

/-- `s` with a table word offered on the command port as the very next event (log 9). -/
def State.withFetchWord (s : State) (nbits w : Nat) : State := s.offerFirst (tableWord nbits w)

end Sys2Proof.Machine
end

