-- ==== Sys2Proof/Machine/Pseudo.lean ====
section
/-! DEFINITION. The pseudo-instructions (30_encoding.md R71 to R73). Each expands to one command of the
opcode table; none is a command of its own, and the block never maps bytes back to action names. -/

namespace Sys2Proof.Machine

/-- `PAN_RIGHT addr, speed` and `TX_PAN_RIGHT addr, speed` have the body `addr, 0x00, 0x02, speed, 0x00`
(R71). -/
def panRightBody (addr speed : Byte) : Body :=
  { unitAddress := addr, command1 := 0x00, command2 := 0x02, data1 := speed, data2 := 0x00 }

/-- `PAN_RIGHT` expands to ENCODE (R71). -/
def expandPanRight (addr speed : Byte) : Instr := .encodeFrame (panRightBody addr speed)

/-- `TX_PAN_RIGHT` expands to TX_START (R71). -/
def expandTxPanRight (addr speed : Byte) : Instr := .txStart (panRightBody addr speed)

/-- The action names the source lists (R72). It lists "the speed setters, the position setters"
without naming them one by one; they are numbered here (log 6). -/
inductive ActionName where
  | panLeft | panRight | tiltUp | tiltDown | tiltStop
  | zoomTele | zoomWide | zoomStop | focusNear | focusFar | focusStop
  | presetSet | presetGoto | presetClear | presetSpeed | presetStayTime
  | speedSetter (n : Nat) | positionSetter (n : Nat)
  | accessoryOn | accessoryOff
  deriving DecidableEq, Repr

/-- The shape of an action table entry (R72). -/
inductive ActionShape where
  /-- no live parameter -/
  | fixed (v1 v2 : Byte)
  /-- a byte, a speed, in data1 -/
  | liveD1 (v2 : Byte)
  /-- a byte, a speed, in data2 -/
  | liveD2 (v1 : Byte)
  /-- a 16-bit position in data1 and data2 -/
  | position
  deriving DecidableEq, Repr

/-- An entry `(cmd1, cmd2, shape)` (R72). -/
structure ActionEntry where
  cmd1 : Byte
  cmd2 : Byte
  shape : ActionShape
  deriving DecidableEq, Repr

/-- `ACTION_TABLE`, an open parameter (00_scope.md R12): any table. Two names may map to the same bytes
(R73). -/
abbrev ActionTable := List (ActionName × ActionEntry)

/-- The optional operand `p` of `ENCODE_ACT` and `TX_ACT` (R72). -/
inductive ActionOperand where
  | absent
  | byte (p : Byte)
  | position (p : BitVec 16)
  deriving DecidableEq, Repr

/-- `(data1, data2)` of a shape and its operand; none where the operand is not the one the shape takes.
A position goes high byte first (20_memory.md R45). -/
def actionData (sh : ActionShape) (p : ActionOperand) : Option (Byte × Byte) :=
  match sh, p with
  | .fixed v1 v2, .absent => some (v1, v2)
  | .liveD1 v2, .byte p => some (p, v2)
  | .liveD2 v1, .byte p => some (v1, p)
  | .position, .position p => some (p.extractLsb' 8 8, p.extractLsb' 0 8)
  | _, _ => none

/-- The first entry of a table under a name. -/
def lookupAction (t : ActionTable) (a : ActionName) : Option ActionEntry :=
  match t with
  | [] => none
  | (b, e) :: rest => if b = a then some e else lookupAction rest a

/-- The body an action expands to. -/
def actionBody (t : ActionTable) (a : ActionName) (addr : Byte) (p : ActionOperand) : Option Body :=
  match lookupAction t a with
  | none => none
  | some e =>
    match actionData e.shape p with
    | none => none
    | some (d1, d2) =>
      some { unitAddress := addr, command1 := e.cmd1, command2 := e.cmd2, data1 := d1, data2 := d2 }

/-- `ENCODE_ACT action, addr [, p]` (R72). -/
def expandEncodeAct (t : ActionTable) (a : ActionName) (addr : Byte) (p : ActionOperand) : Option Instr :=
  (actionBody t a addr p).map Instr.encodeFrame

/-- `TX_ACT action, addr [, p]` (R72). -/
def expandTxAct (t : ActionTable) (a : ActionName) (addr : Byte) (p : ActionOperand) : Option Instr :=
  (actionBody t a addr p).map Instr.txStart

end Sys2Proof.Machine
end

