-- ==== Sys2Proof/Machine/Assembler.lean ====
section
/-! DEFINITION. The assembler (30_encoding.md R69, R70): a mnemonic with its byte operands, from naturals
and from a line of text. -/

namespace Sys2Proof.Machine

/-- What an assembly line may name: an operation of the table, or PAN_RIGHT and TX_PAN_RIGHT (R71).
There is "no spelling for an illegal word". -/
inductive AsmOp where
  | nop | encode | decode | txStart | txNext | rxByte | rxClear | panRight | txPanRight
  deriving DecidableEq, Repr

/-- How many operands a form takes (R69, R71). -/
def AsmOp.operandCount : AsmOp → Nat
  | .nop => 0
  | .encode => 5
  | .decode => 7
  | .txStart => 5
  | .txNext => 0
  | .rxByte => 1
  | .rxClear => 0
  | .panRight => 2
  | .txPanRight => 2

/-- "The assembler refuses an operand above 255": it never reduces it mod 256 (20_memory.md R49). -/
def asmByte (n : Nat) : Option Byte := if n ≤ 255 then some (BitVec.ofNat 8 n) else none

/-- All operands, or a refusal if one is above 255. -/
def asmBytes : List Nat → Option (List Byte)
  | [] => some []
  | n :: ns =>
    match asmByte n, asmBytes ns with
    | some b, some bs => some (b :: bs)
    | _, _ => none

/-- Five operand bytes as a body, in the order of R69. -/
def bodyOf (bs : List Byte) : Option Body :=
  match bs with
  | [a, c1, c2, d1, d2] => some ⟨a, c1, c2, d1, d2⟩
  | _ => none

/-- Seven operand bytes as a frame, in wire order (R69). -/
def frameOfBytes (bs : List Byte) : Option Frame :=
  match bs with
  | [b0, b1, b2, b3, b4, b5, b6] => some ⟨b0, ⟨b1, b2, b3, b4, b5⟩, b6⟩
  | _ => none

/-- The forms of R69 and R71; none where the number of operands is not the form's. -/
def asmForm : AsmOp → List Byte → Option Instr
  | .nop, bs => if bs.length = 0 then some .nop else none
  | .encode, bs => (bodyOf bs).map Instr.encodeFrame
  | .decode, bs => (frameOfBytes bs).map Instr.decodeFrame
  | .txStart, bs => (bodyOf bs).map Instr.txStart
  | .txNext, bs => if bs.length = 0 then some .txNext else none
  | .rxByte, bs => match bs with | [b] => some (.rxByte b) | _ => none
  | .rxClear, bs => if bs.length = 0 then some .rxClear else none
  | .panRight, bs => match bs with | [addr, speed] => some (expandPanRight addr speed) | _ => none
  | .txPanRight, bs => match bs with | [addr, speed] => some (expandTxPanRight addr speed) | _ => none

/-- The command of a mnemonic and its natural operands. -/
def assemble (op : AsmOp) (operands : List Nat) : Option Instr :=
  match asmBytes operands with
  | some bs => asmForm op bs
  | none => none

/-! ## Lines of text (R69). White space, letter case and numbers: log 8. -/

def isBlankChar (c : Char) : Bool := c == ' ' || c == '\t'

/-- Without the blanks at both ends. -/
def trimBlanks (cs : List Char) : List Char :=
  ((cs.dropWhile isBlankChar).reverse.dropWhile isBlankChar).reverse

/-- The parts between commas. -/
def splitCommas : List Char → List (List Char)
  | [] => [[]]
  | c :: cs =>
    match splitCommas cs with
    | [] => [[c]]
    | w :: ws => if c == ',' then [] :: w :: ws else (c :: w) :: ws

/-- A digit's value, for digits 0..9 and a..f in either case. -/
def digitValue (c : Char) : Option Nat :=
  let n := c.toNat
  if 48 ≤ n ∧ n ≤ 57 then some (n - 48)
  else if 97 ≤ n ∧ n ≤ 102 then some (n - 87)
  else if 65 ≤ n ∧ n ≤ 70 then some (n - 55)
  else none

/-- The number the digits spell in a base, on top of the value so far. -/
def numeralFrom (base acc : Nat) : List Char → Option Nat
  | [] => some acc
  | c :: cs =>
    match digitValue c with
    | some d => if d < base then numeralFrom base (acc * base + d) cs else none
    | none => none

/-- At least one digit. -/
def numeral (base : Nat) (cs : List Char) : Option Nat :=
  if cs = [] then none else numeralFrom base 0 cs

/-- "A byte operand is a decimal number or a `0x` hex number." -/
def asmNumber (cs : List Char) : Option Nat :=
  match cs with
  | '0' :: 'x' :: ds => numeral 16 ds
  | ds => numeral 10 ds

def asmNumbers : List (List Char) → Option (List Nat)
  | [] => some []
  | w :: ws =>
    match asmNumber (trimBlanks w), asmNumbers ws with
    | some n, some ns => some (n :: ns)
    | _, _ => none

/-- The comma-separated operand list; nothing but blanks is the empty list. -/
def asmOperands (cs : List Char) : Option (List Nat) :=
  if trimBlanks cs = [] then some [] else asmNumbers (splitCommas cs)

/-- The mnemonics as R69 and R71 spell them. -/
def asmOpOf (m : List Char) : Option AsmOp :=
  if m = "NOP".toList then some .nop
  else if m = "ENCODE".toList then some .encode
  else if m = "DECODE".toList then some .decode
  else if m = "TX_START".toList then some .txStart
  else if m = "TX_NEXT".toList then some .txNext
  else if m = "RX_BYTE".toList then some .rxByte
  else if m = "RX_CLEAR".toList then some .rxClear
  else if m = "PAN_RIGHT".toList then some .panRight
  else if m = "TX_PAN_RIGHT".toList then some .txPanRight
  else none

/-- A line without its optional comment and without the blanks at both ends (R69, log 8). -/
def lineText (line : List Char) : List Char := trimBlanks (line.takeWhile (· != ';'))

/-- The `MNEMONIC` of a line: its text up to the first blank. -/
def lineMnemonic (line : List Char) : List Char := (lineText line).takeWhile fun c => !isBlankChar c

/-- The operand list of a line: its text after the mnemonic. -/
def lineOperands (line : List Char) : List Char := (lineText line).dropWhile fun c => !isBlankChar c

/-- "An assembly line is `MNEMONIC` followed by a comma-separated list of byte operands, with an optional
comment after `;`." -/
def assembleLine (line : List Char) : Option Instr :=
  match asmOpOf (lineMnemonic line), asmOperands (lineOperands line) with
  | some op, some ns => assemble op ns
  | _, _ => none

/-- The hex digit of a value below 16, in capitals (DESIGN CHOICE, log 8). -/
def hexDigit (n : Nat) : Char := if n < 10 then Char.ofNat (48 + n) else Char.ofNat (55 + n)

/-- "The 16-digit hex word" (R69): sixteen digits and no `0x` before them (DESIGN CHOICE, log 8: R69 does
not say whether a listing prints the prefix). -/
def hexWord (w : CommandWord) : List Char :=
  (List.range 16).map fun k => hexDigit (w.toNat / 16 ^ (15 - k) % 16)

/-- "A listing shows each line as the 16-digit hex word, then the assembly" (R69): one blank between them,
and the line as it was written (DESIGN CHOICE, log 8). -/
def listingLine (line : List Char) : Option (List Char) :=
  match assembleLine line with
  | some i => some (hexWord (encode i) ++ ' ' :: line)
  | none => none

end Sys2Proof.Machine
end

