-- ==== Sys2Proof/Safety.lean ====
section
/-! DEFINITION. What a sound state of the block is (10_state.md R26), what no operation can observe
(R27), and the words in which statements speak of runs of commands and of what they answer. -/

namespace Sys2Proof.Machine

/-! ## The invariant of 10_state.md R26 -/

/-- `sum(buf[k] for 1 <= k <= n - 1) mod 256`, for k up to 5: the checksum of the body bytes a channel
has moved when its index is `n`. An empty sum is 0. -/
def bodySum (buf : FrameBuf) (n : Nat) : Byte :=
  BitVec.ofNat 8 (((buf.toList.take n).drop 1).map BitVec.toNat).sum

/-- "After reset and after every operation the state satisfies" these lines. -/
structure StateInv (s : State) : Prop where
  txIdle : s.tx.active = false → s.tx.idx = 0 ∧ s.tx.acc = 0
  txIdx : s.tx.active = true → s.tx.idx.toNat ≤ 6
  txAcc : s.tx.active = true → s.tx.acc = bodySum s.tx.buf s.tx.idx.toNat
  txSync : s.tx.active = true → s.tx.buf[0] = s.sync
  rxIdx : s.rx.idx.toNat ≤ 6
  rxAcc : s.rx.acc = bodySum s.rx.buf s.rx.idx.toNat

/-- `SYNC` holds `SYNC_BYTE` (10_state.md R21). -/
def SyncFixed (s : State) : Prop := s.sync = s.config.syncByte

/-! ## What no operation can observe (10_state.md R27) -/

/-- Two states that differ at most in `TX_BUF` while the serializer is idle, in the entries of
`RX_BUF` from `RX_IDX` on, and in the model's count of free values. -/
structure SameObservable (s t : State) : Prop where
  config : s.config = t.config
  sync : s.sync = t.sync
  inputs : s.inputs = t.inputs
  responses : s.responses = t.responses
  txIdx : s.tx.idx = t.tx.idx
  txAcc : s.tx.acc = t.tx.acc
  txActive : s.tx.active = t.tx.active
  txBuf : s.tx.active = true → s.tx.buf = t.tx.buf
  rxIdx : s.rx.idx = t.rx.idx
  rxAcc : s.rx.acc = t.rx.acc
  rxBuf : ∀ k : Fin 6, k.val < s.rx.idx.toNat → s.rx.buf[k] = t.rx.buf[k]

/-! ## Runs -/

/-- `n` steps of the machine, each taking the host's next event, up to a fault or a refusal. -/
def runSteps : Nat → State → Result
  | 0, s => .next s
  | n + 1, s =>
    match step s with
    | .next t => runSteps n t
    | .fault r => .fault r
    | .refused r => .refused r

/-- The commands performed in issue order, each complete before the next begins (20_memory.md R53). -/
def runCommands : List Instr → State → Result
  | [], s => .next s
  | i :: is, s =>
    match exec i s with
    | .next t => runCommands is t
    | .fault r => .fault r
    | .refused r => .refused r

/-- The response words that a run of `is` from `s` to `t` gave to the commands that `p` picks, in
order: the n-th new word on the response port answers the n-th command. -/
def answersTo (p : Instr → Bool) (is : List Instr) (s t : State) : List ResponseWord :=
  ((is.zip (t.responses.drop s.responses.length)).filter fun a => p a.1).map Prod.snd

def isTxStart : Instr → Bool
  | .txStart _ => true
  | .nop | .encodeFrame _ | .decodeFrame _ | .txNext | .rxByte _ | .rxClear | .illegal _ => false

def isTxNext : Instr → Bool
  | .txNext => true
  | .nop | .encodeFrame _ | .decodeFrame _ | .txStart _ | .rxByte _ | .rxClear | .illegal _ => false

def isRxClear : Instr → Bool
  | .rxClear => true
  | .nop | .encodeFrame _ | .decodeFrame _ | .txStart _ | .txNext | .rxByte _ | .illegal _ => false

/-- The byte a command hands to the deserializer, if any. -/
def rxOperand : Instr → Option Byte
  | .rxByte b => some b
  | .nop | .encodeFrame _ | .decodeFrame _ | .txStart _ | .txNext | .rxClear | .illegal _ => none

def isRxByte (i : Instr) : Bool := (rxOperand i).isSome

/-- Executing `i` at `s` completes and drives exactly one response word, whose status code is `c`. -/
def AnswersCode (i : Instr) (s : State) (c : BitVec 4) : Prop :=
  ∃ t r, exec i s = .next t ∧ t.responses = s.responses ++ [r] ∧ statusField r = c

/-- The frame with byte `k` replaced. -/
def setFrameByte (f : Frame) (k : Fin 7) (b : Byte) : Frame :=
  match k with
  | 0 => { f with sync := b }
  | 1 => { f with body := { f.body with unitAddress := b } }
  | 2 => { f with body := { f.body with command1 := b } }
  | 3 => { f with body := { f.body with command2 := b } }
  | 4 => { f with body := { f.body with data1 := b } }
  | 5 => { f with body := { f.body with data2 := b } }
  | 6 => { f with checksum := b }

/-- A command that touches neither channel. -/
def writesNoState : Instr → Bool
  | .nop | .encodeFrame _ | .decodeFrame _ | .illegal _ => true
  | .txStart _ | .txNext | .rxByte _ | .rxClear => false

end Sys2Proof.Machine
end

