-- ==== Sys2Proof/Certificates/Slice0/Obligations.lean ====
section
/-! DEFINITION. The statements about the model, from the numbered rules of spec/. Each is a Prop; none is
proved here. -/

open Sys2Proof Sys2Proof.Machine

/-! ## Encoding (30_encoding.md) -/

/-- Decoding the word of a well-formed command gives the command back, with every operand byte at every
value (R60, R62, R63, R70). -/
def Obligations.DecodeOfEncodeIsTheCommand : Prop :=
  ∀ i : Instr, i.wellFormed = true → decode (encode i) = i

/-- Encoding what a word decodes to gives the word with its ignored bytes cleared (R62, R69). -/
def Obligations.EncodeOfDecodeClearsIgnoredBytes : Prop :=
  ∀ w : CommandWord, encode (decode w) = w &&& (decode w).usedBits

/-- Clearing a word's ignored bytes, or putting any bits there, does not change what it decodes to: two
words that agree on the used bits of the first decode alike (R62: an ignored byte "may hold any value
and has no effect"). -/
def Obligations.IgnoredBytesHaveNoEffect : Prop :=
  ∀ w v : CommandWord,
    w &&& (decode w).usedBits = v &&& (decode w).usedBits → decode v = decode w

/-- R65 and R64: every word is exactly one of the seven operations or illegal; `RSV` is tested first. -/
def Obligations.DecodingTestsReservedThenOperation : Prop :=
  ∀ w : CommandWord,
    (w.extractLsb' 56 5 ≠ 0#5 → decode w = .illegal w) ∧
    (w.extractLsb' 56 5 = 0#5 →
      (w.extractLsb' 61 3 = 0b000#3 → decode w = .nop) ∧
      (w.extractLsb' 61 3 = 0b001#3 → ∃ x, decode w = .encodeFrame x) ∧
      (w.extractLsb' 61 3 = 0b010#3 → ∃ f, decode w = .decodeFrame f) ∧
      (w.extractLsb' 61 3 = 0b011#3 → ∃ x, decode w = .txStart x) ∧
      (w.extractLsb' 61 3 = 0b100#3 → decode w = .txNext) ∧
      (w.extractLsb' 61 3 = 0b101#3 → ∃ b, decode w = .rxByte b) ∧
      (w.extractLsb' 61 3 = 0b110#3 → decode w = .rxClear) ∧
      (w.extractLsb' 61 3 = 0b111#3 → decode w = .illegal w))

/-- What decoding gives is well formed: an `illegal` command always holds an illegal word. -/
def Obligations.DecodedCommandsAreWellFormed : Prop :=
  ∀ w : CommandWord, (decode w).wellFormed = true

/-- R63: a word that selects a row of the opcode table decodes to that row's operation, and a word that
selects no row has `RSV` not 0 and decodes as illegal. -/
def Obligations.DecodingFollowsTheOpcodeTable : Prop :=
  ∀ w : CommandWord,
    (∀ r ∈ opcodeRows, w &&& r.mask = r.bits → (decode w).mnemonic = r.mnemonic) ∧
    ((∀ r ∈ opcodeRows, w &&& r.mask ≠ r.bits) → rsvField w ≠ 0#5 ∧ decode w = .illegal w)

/-- No word selects two rows of the table (R63), and R60's fields of one written-out word per family
read as the spec's own examples say (R80, R81, R100, R101, R120, R121, R140, R141). -/
def Obligations.WrittenOutWordsDecode : Prop :=
  opcodeRows.Pairwise (fun r q => r.disjoint q = true) ∧
  decode 0x0000000000000000 = .nop ∧
  decode 0x2000010002200000 = .encodeFrame ⟨0x01, 0x00, 0x02, 0x20, 0x00⟩ ∧
  decode 0x40FF010002200023 = .decodeFrame ⟨0xFF, ⟨0x01, 0x00, 0x02, 0x20, 0x00⟩, 0x23⟩ ∧
  decode 0x6000010002200000 = .txStart ⟨0x01, 0x00, 0x02, 0x20, 0x00⟩ ∧
  decode 0x8000000000000000 = .txNext ∧
  decode 0xA000000000000023 = .rxByte 0x23 ∧
  decode 0xC000000000000000 = .rxClear ∧
  decode 0xE000000000000000 = .illegal 0xE000000000000000 ∧
  decode 0x8100000000000000 = .illegal 0x8100000000000000

/-- R67: the fields of a response word read back as the status and the data it was made of; bits
[59:56] are 0; result byte `Dk` of a frame is frame byte `k` (20_memory.md R43, R44). -/
def Obligations.ResponseFieldsReadBack : Prop :=
  ∀ (st : Status) (d : Data) (f : Frame),
    statusField (responseWord st d) = st.code ∧
    zeroField (responseWord st d) = 0#4 ∧
    dataField (responseWord st d) = d ∧
    Status.ofCode (statusField (responseWord st d)) = some st ∧
    ∀ k : Fin 7, dataByte (responseWord st (frameData f)) k = frameByte f k

/-! ## One step (20_memory.md R50, R53; 30_encoding.md R59) -/

/-- A step takes the host's oldest command word and is `exec` of what it decodes to, in the state with
that word taken off the port. -/
def Obligations.StepRunsTheDecodedCommand : Prop :=
  ∀ (s : State) (w : CommandWord) (rest : List HostEvent),
    s.inputs = .command w :: rest → step s = exec (decode w) { s with inputs := rest }

/-- Every command of Instr completes in every state: there is no fault, no refusal and no fatal error
(60_exceptions.md R155), and every step has a next state. -/
def Obligations.EveryStepHasANextState : Prop :=
  (∀ (i : Instr) (s : State), ∃ t, exec i s = .next t) ∧
  (∀ s : State, ∃ t, step s = .next t)

/-- R59: a command word gets exactly one response word and a reset event none. The model's choice (log
5): with no event offered nothing changes. -/
def Obligations.OneResponsePerCommandWord : Prop :=
  ∀ s t : State, step s = .next t →
    (∀ w rest, s.inputs = .command w :: rest →
      t.inputs = rest ∧ ∃ r, t.responses = s.responses ++ [r]) ∧
    (∀ rest, s.inputs = .reset :: rest → t.inputs = rest ∧ t.responses = s.responses) ∧
    (s.inputs = [] → t = s)

/-- R67, R68, R150: whatever the command, the word answered has a status code 0..6, zeros at [59:56],
and `DATA` = 0 unless the status is OK. -/
def Obligations.AnswersAreWellShaped : Prop :=
  ∀ (i : Instr) (s t : State) (r : ResponseWord),
    exec i s = .next t → t.responses = s.responses ++ [r] →
    (statusField r).toNat ≤ 6 ∧ zeroField r = 0#4 ∧ (statusField r ≠ 0#4 → dataField r = 0)

/-! ## Reset and construction (10_state.md R28, 70_reset_and_hazards.md R180, R181) -/

/-- R28 for this hardware: the state after reset, and the parameters of 00_scope.md R9. (The buffers'
contents are the model's choice, log 2, and are not stated.) -/
def Obligations.ResetStateValues : Prop :=
  State.reset.sync = 0xFF ∧ State.reset.config.syncByte = 0xFF ∧
  State.reset.config.syncCheck = false ∧
  State.reset.tx.active = false ∧ State.reset.tx.idx = 0 ∧ State.reset.tx.acc = 0 ∧
  State.reset.rx.idx = 0 ∧ State.reset.rx.acc = 0 ∧
  State.reset.inputs = [] ∧ State.reset.responses = []

/-- The reset event, from any state and whatever the free bytes in the buffers: both channels idle and
empty, `SYNC` and the parameters unchanged, no response word. -/
def Obligations.ResetEventEmptiesBothChannels : Prop :=
  ∀ (s : State) (rest : List HostEvent), s.inputs = .reset :: rest →
    ∃ t, step s = .next t ∧
      t.sync = s.sync ∧ t.config = s.config ∧
      t.tx.active = false ∧ t.tx.idx = 0 ∧ t.tx.acc = 0 ∧
      t.rx.idx = 0 ∧ t.rx.acc = 0 ∧
      t.responses = s.responses ∧ t.inputs = rest ∧
      (SyncFixed s → SyncFixed t)

/-- R10: construction takes the two named sync bytes and refuses every other, whatever `SYNC_CHECK`. -/
def Obligations.ConstructionTakesOnlyTheTwoSyncBytes : Prop :=
  ∀ (b : Byte) (chk : Bool),
    (b = 0xFF ∨ b = 0xA0 →
      ∃ c, Config.construct b chk = some c ∧ c.syncByte = b ∧ c.syncCheck = chk) ∧
    (b ≠ 0xFF → b ≠ 0xA0 → Config.construct b chk = none)

/-- R21: `SYNC` holds `SYNC_BYTE` from construction, and no step (an operation, a reset event)
changes it or the parameters. -/
def Obligations.SyncIsReadOnly : Prop :=
  (∀ c : Config, (State.construct c).sync = c.syncByte) ∧
  (∀ s t : State, step s = .next t → t.sync = s.sync ∧ t.config = s.config)

/-! ## The invariant (10_state.md R26) -/

/-- The invariant holds right after reset, of this hardware and of every instance. -/
def Obligations.InvariantHoldsAfterReset : Prop :=
  StateInv State.reset ∧ SyncFixed State.reset ∧
  ∀ c : Config, StateInv (State.construct c) ∧ SyncFixed (State.construct c)

/-- R26: after reset and after every operation the state satisfies the invariant. A reset event
establishes it from any state at all; every step keeps it. -/
def Obligations.EveryStepKeepsTheInvariant : Prop :=
  (∀ s t : State, StateInv s → step s = .next t → StateInv t) ∧
  (∀ (s t : State) (rest : List HostEvent),
    s.inputs = .reset :: rest → step s = .next t → StateInv t) ∧
  (∀ c : Config, StateInv (State.construct c))

/-! ## Checksum arithmetic (00_scope.md R17, 40_frame_ops.md R82, R83) -/

/-- R17: byte 6 of the frame ENCODE answers is the sum of the five body bytes mod 256; `SYNC` is not an
addend. -/
def Obligations.ChecksumIsTheBodySumModulo256 : Prop :=
  ∀ (x : Body) (s : State), ∃ r,
    exec (.encodeFrame x) s = .next { s with responses := s.responses ++ [r] } ∧
    (dataByte r 6).toNat =
      (x.unitAddress.toNat + x.command1.toNat + x.command2.toNat + x.data1.toNat + x.data2.toNat)
        % 256

/-- R82: an accumulator that adds each byte mod 256 ends at the whole sum mod 256; over the five body
bytes, in order, that is the checksum. -/
def Obligations.AccumulatingEqualsTheWholeSum : Prop :=
  (∀ xs : List Byte, xs.foldl accumulate 0 = BitVec.ofNat 8 (xs.map BitVec.toNat).sum) ∧
  (∀ a c1 c2 d1 d2 : Byte, [a, c1, c2, d1, d2].foldl accumulate 0 = checksum ⟨a, c1, c2, d1, d2⟩)

/-- The boundary sums of R83: the sum of five bytes is at most 1275, and the sums 0, 255, 256, 511, 512
and 1275 give the checksums the table gives. -/
def Obligations.ChecksumAtTheBoundarySums : Prop :=
  ∀ (x : Body) (n : Nat),
    x.unitAddress.toNat + x.command1.toNat + x.command2.toNat + x.data1.toNat + x.data2.toNat = n →
    n ≤ 1275 ∧
    (n = 0 → checksum x = 0x00) ∧ (n = 255 → checksum x = 0xFF) ∧ (n = 256 → checksum x = 0x00) ∧
    (n = 511 → checksum x = 0xFF) ∧ (n = 512 → checksum x = 0x00) ∧ (n = 1275 → checksum x = 0xFB)

/-! ## Each command completes: its result and, by the equation of states, its frame -/

/-- NOP completes in every state: OK, 0, nothing else changes (43_control.md R140). -/
def Obligations.NopCompletes : Prop :=
  ∀ s : State,
    exec .nop s = .next { s with responses := s.responses ++ [responseWord .ok 0] }

/-- An illegal word is answered in every state by ILLEGAL_OP, 0; nothing else changes (R141). -/
def Obligations.IllegalCompletes : Prop :=
  ∀ (w : CommandWord) (s : State),
    exec (.illegal w) s =
      .next { s with responses := s.responses ++ [responseWord .illegalOp 0] }

/-- ENCODE completes in every state with the frame; no state is written (40_frame_ops.md R80). -/
def Obligations.EncodeCompletes : Prop :=
  ∀ (x : Body) (s : State),
    exec (.encodeFrame x) s =
      .next { s with responses := s.responses ++
        [responseWord .ok (frameData { sync := s.sync, body := x, checksum := checksum x })] }

/-- DECODE of a frame whose checksum and, when it is checked, sync byte hold answers that frame
unchanged; no state is written (R81). -/
def Obligations.DecodeCompletes : Prop :=
  ∀ (f : Frame) (s : State),
    checksum f.body = f.checksum → (s.config.syncCheck = false ∨ f.sync = s.sync) →
    exec (.decodeFrame f) s =
      .next { s with responses := s.responses ++ [responseWord .ok (frameData f)] }

/-- DECODE of any other frame answers the error, `DATA` = 0; the checksum's error outranks the sync
byte's; no state is written (R81, R152). -/
def Obligations.DecodeAnswersItsErrors : Prop :=
  ∀ (f : Frame) (s : State),
    (checksum f.body ≠ f.checksum →
      exec (.decodeFrame f) s =
        .next { s with responses := s.responses ++ [responseWord .checksumMismatch 0] }) ∧
    (checksum f.body = f.checksum → s.config.syncCheck = true → f.sync ≠ s.sync →
      exec (.decodeFrame f) s =
        .next { s with responses := s.responses ++ [responseWord .syncMismatch 0] })

/-- TX_START on an idle serializer loads sync and body and completes; the receiver is untouched
(41_serializer.md R100). -/
def Obligations.TxStartCompletes : Prop :=
  ∀ (x : Body) (s : State), s.tx.active = false →
    exec (.txStart x) s =
      .next { s with
        tx :=
          { buf := #v[s.sync, x.unitAddress, x.command1, x.command2, x.data1, x.data2]
            idx := 0, acc := 0, active := true }
        responses := s.responses ++ [responseWord .ok 0] }

/-- TX_START while a frame is in flight answers TX_BUSY and keeps that frame whole (R100, R186). -/
def Obligations.TxStartWhileBusyIsRefused : Prop :=
  ∀ (x : Body) (s : State), s.tx.active = true →
    exec (.txStart x) s =
      .next { s with responses := s.responses ++ [responseWord .txBusy 0] }

/-- TX_NEXT with a frame in flight completes: at index 0 the sync byte, not accumulated; at 1..5 the
body byte, accumulated; at 6 the accumulator, and the channel is idle again. The receiver is untouched
(R101). -/
def Obligations.TxNextCompletes : Prop :=
  ∀ s : State, s.tx.active = true →
    (s.tx.idx = 0 →
      exec .txNext s =
        .next { s with
          tx := { s.tx with idx := 1 }
          responses := s.responses ++ [responseWord .ok (byteData s.tx.buf[0])] }) ∧
    (∀ k : Fin 6, 1 ≤ k.val → s.tx.idx.toNat = k.val →
      exec .txNext s =
        .next { s with
          tx := { s.tx with
            idx := BitVec.ofNat 3 (k.val + 1)
            acc := BitVec.ofNat 8 (s.tx.acc.toNat + s.tx.buf[k].toNat) }
          responses := s.responses ++ [responseWord .ok (byteData s.tx.buf[k])] }) ∧
    (s.tx.idx = 6 →
      exec .txNext s =
        .next { s with
          tx := { s.tx with idx := 0, acc := 0, active := false }
          responses := s.responses ++ [responseWord .ok (byteData s.tx.acc)] })

/-- TX_NEXT with no frame loaded answers TX_IDLE and emits nothing (R101). -/
def Obligations.TxNextWhileIdleIsRefused : Prop :=
  ∀ s : State, s.tx.active = false →
    exec .txNext s = .next { s with responses := s.responses ++ [responseWord .txIdle 0] }

/-- RX_BYTE at index 0..5 completes: the byte is stored at the index, accumulated from index 1 on, and
answered RX_PENDING; at index 6 a byte that completes a good frame is answered by that frame and the
channel is empty again. The serializer is untouched (42_deserializer.md R120). -/
def Obligations.RxByteCompletes : Prop :=
  ∀ (b : Byte) (s : State),
    (s.rx.idx = 0 →
      exec (.rxByte b) s =
        .next { s with
          rx := { s.rx with buf := s.rx.buf.set 0 b, idx := 1 }
          responses := s.responses ++ [responseWord .rxPending 0] }) ∧
    (∀ k : Fin 6, 1 ≤ k.val → s.rx.idx.toNat = k.val →
      exec (.rxByte b) s =
        .next { s with
          rx :=
            { buf := s.rx.buf.set k.val b
              idx := BitVec.ofNat 3 (k.val + 1)
              acc := BitVec.ofNat 8 (s.rx.acc.toNat + b.toNat) }
          responses := s.responses ++ [responseWord .rxPending 0] }) ∧
    (s.rx.idx = 6 → s.rx.acc = b → (s.config.syncCheck = false ∨ s.rx.buf[0] = s.sync) →
      exec (.rxByte b) s =
        .next { s with
          rx := { s.rx with idx := 0, acc := 0 }
          responses := s.responses ++
            [responseWord .ok
              (s.rx.buf[0] ++ s.rx.buf[1] ++ s.rx.buf[2] ++ s.rx.buf[3] ++ s.rx.buf[4]
                ++ s.rx.buf[5] ++ b)] })

/-- RX_BYTE at index 6 with a bad checksum, or a good one and a foreign sync byte that is checked,
answers the error with `DATA` = 0, and the channel is empty again all the same (R120, R151). -/
def Obligations.RxByteAnswersItsErrors : Prop :=
  ∀ (b : Byte) (s : State), s.rx.idx = 6 →
    (s.rx.acc ≠ b →
      exec (.rxByte b) s =
        .next { s with
          rx := { s.rx with idx := 0, acc := 0 }
          responses := s.responses ++ [responseWord .checksumMismatch 0] }) ∧
    (s.rx.acc = b → s.config.syncCheck = true → s.rx.buf[0] ≠ s.sync →
      exec (.rxByte b) s =
        .next { s with
          rx := { s.rx with idx := 0, acc := 0 }
          responses := s.responses ++ [responseWord .syncMismatch 0] })

/-- RX_CLEAR completes in every state: index and accumulator 0, the buffer and all else kept (R121). -/
def Obligations.RxClearCompletes : Prop :=
  ∀ s : State,
    exec .rxClear s =
      .next { s with
        rx := { s.rx with idx := 0, acc := 0 }
        responses := s.responses ++ [responseWord .ok 0] }

/-! ## The rules whole, from the command word to the response word's fields -/

/-- R80 whole. -/
def Obligations.EncodeWordAnswersTheFrame : Prop :=
  ∀ (s : State) (w : CommandWord) (rest : List HostEvent),
    s.inputs = .command w :: rest → w.extractLsb' 61 3 = 0b001#3 → w.extractLsb' 56 5 = 0#5 →
    ∃ r, step s = .next { s with inputs := rest, responses := s.responses ++ [r] } ∧
      statusField r = 0#4 ∧
      dataByte r 0 = s.sync ∧ dataByte r 1 = w.extractLsb' 40 8 ∧
      dataByte r 2 = w.extractLsb' 32 8 ∧ dataByte r 3 = w.extractLsb' 24 8 ∧
      dataByte r 4 = w.extractLsb' 16 8 ∧ dataByte r 5 = w.extractLsb' 8 8 ∧
      (dataByte r 6).toNat =
        ((w.extractLsb' 40 8).toNat + (w.extractLsb' 32 8).toNat + (w.extractLsb' 24 8).toNat
          + (w.extractLsb' 16 8).toNat + (w.extractLsb' 8 8).toNat) % 256

/-- R81 whole. -/
def Obligations.DecodeWordChecksTheFrame : Prop :=
  ∀ (s : State) (w : CommandWord) (rest : List HostEvent),
    s.inputs = .command w :: rest → w.extractLsb' 61 3 = 0b010#3 → w.extractLsb' 56 5 = 0#5 →
    ∃ r, step s = .next { s with inputs := rest, responses := s.responses ++ [r] } ∧
      ∀ n, n = ((w.extractLsb' 40 8).toNat + (w.extractLsb' 32 8).toNat + (w.extractLsb' 24 8).toNat
          + (w.extractLsb' 16 8).toNat + (w.extractLsb' 8 8).toNat) % 256 →
        (n ≠ (w.extractLsb' 0 8).toNat → statusField r = 2#4 ∧ dataField r = 0) ∧
        (n = (w.extractLsb' 0 8).toNat → s.config.syncCheck = true → w.extractLsb' 48 8 ≠ s.sync →
          statusField r = 3#4 ∧ dataField r = 0) ∧
        (n = (w.extractLsb' 0 8).toNat → (s.config.syncCheck = false ∨ w.extractLsb' 48 8 = s.sync) →
          statusField r = 0#4 ∧ dataField r = w.extractLsb' 0 56)

/-- R100 whole. -/
def Obligations.TxStartWordLoadsTheBody : Prop :=
  ∀ (s : State) (w : CommandWord) (rest : List HostEvent),
    s.inputs = .command w :: rest → w.extractLsb' 61 3 = 0b011#3 → w.extractLsb' 56 5 = 0#5 →
    ∃ r,
      (s.tx.active = true →
        step s = .next { s with inputs := rest, responses := s.responses ++ [r] } ∧
        statusField r = 4#4 ∧ dataField r = 0) ∧
      (s.tx.active = false →
        step s = .next { s with
          inputs := rest
          responses := s.responses ++ [r]
          tx :=
            { buf := #v[s.sync, w.extractLsb' 40 8, w.extractLsb' 32 8, w.extractLsb' 24 8,
                w.extractLsb' 16 8, w.extractLsb' 8 8]
              idx := 0, acc := 0, active := true } } ∧
        statusField r = 0#4 ∧ dataField r = 0)

/-- R101 whole, at every legal index (an index 7 occurs in no state that meets the invariant, R26). -/
def Obligations.TxNextWordEmitsTheNextByte : Prop :=
  ∀ (s : State) (w : CommandWord) (rest : List HostEvent),
    s.inputs = .command w :: rest → w.extractLsb' 61 3 = 0b100#3 → w.extractLsb' 56 5 = 0#5 →
    ∃ t r, step s = .next { s with inputs := rest, responses := s.responses ++ [r], tx := t } ∧
      (s.tx.active = false → t = s.tx ∧ statusField r = 5#4 ∧ dataField r = 0) ∧
      (s.tx.active = true →
        statusField r = 0#4 ∧ (dataField r).toNat < 256 ∧
        (∀ k : Fin 6, s.tx.idx.toNat = k.val →
          dataByte r 6 = s.tx.buf[k] ∧
          t.buf = s.tx.buf ∧ t.active = true ∧ t.idx.toNat = k.val + 1 ∧
          t.acc.toNat =
            if 1 ≤ k.val then (s.tx.acc.toNat + s.tx.buf[k].toNat) % 256 else s.tx.acc.toNat) ∧
        (s.tx.idx.toNat = 6 →
          dataByte r 6 = s.tx.acc ∧
          t.buf = s.tx.buf ∧ t.active = false ∧ t.idx = 0 ∧ t.acc = 0))

/-- R120 whole, at every legal index (an index 7 occurs in no state that meets the invariant, R26). -/
def Obligations.RxByteWordTakesTheByte : Prop :=
  ∀ (s : State) (w : CommandWord) (rest : List HostEvent),
    s.inputs = .command w :: rest → w.extractLsb' 61 3 = 0b101#3 → w.extractLsb' 56 5 = 0#5 →
    ∃ c r, step s = .next { s with inputs := rest, responses := s.responses ++ [r], rx := c } ∧
      (∀ k : Fin 6, s.rx.idx.toNat = k.val →
        statusField r = 1#4 ∧ dataField r = 0 ∧
        c.buf = s.rx.buf.set k.val (w.extractLsb' 0 8) ∧ c.idx.toNat = k.val + 1 ∧
        c.acc.toNat =
          if 1 ≤ k.val then (s.rx.acc.toNat + (w.extractLsb' 0 8).toNat) % 256
          else s.rx.acc.toNat) ∧
      (s.rx.idx.toNat = 6 →
        c.buf = s.rx.buf ∧ c.idx = 0 ∧ c.acc = 0 ∧
        (s.rx.acc ≠ w.extractLsb' 0 8 → statusField r = 2#4 ∧ dataField r = 0) ∧
        (s.rx.acc = w.extractLsb' 0 8 → s.config.syncCheck = true → s.rx.buf[0] ≠ s.sync →
          statusField r = 3#4 ∧ dataField r = 0) ∧
        (s.rx.acc = w.extractLsb' 0 8 → (s.config.syncCheck = false ∨ s.rx.buf[0] = s.sync) →
          statusField r = 0#4 ∧ (∀ k : Fin 6, dataByte r k.castSucc = s.rx.buf[k]) ∧
          dataByte r 6 = w.extractLsb' 0 8))

/-- R121, R140 and R141, each whole: RX_CLEAR, NOP and the illegal words, whatever the bits the word
leaves free. -/
def Obligations.ClearNopAndIllegalWords : Prop :=
  ∀ (s : State) (w : CommandWord) (rest : List HostEvent), s.inputs = .command w :: rest →
    (w.extractLsb' 61 3 = 0b110#3 → w.extractLsb' 56 5 = 0#5 →
      ∃ r, step s = .next { s with
          inputs := rest, responses := s.responses ++ [r], rx := { s.rx with idx := 0, acc := 0 } } ∧
        statusField r = 0#4 ∧ dataField r = 0) ∧
    (w.extractLsb' 61 3 = 0b000#3 → w.extractLsb' 56 5 = 0#5 →
      ∃ r, step s = .next { s with inputs := rest, responses := s.responses ++ [r] } ∧
        statusField r = 0#4 ∧ dataField r = 0) ∧
    (w.extractLsb' 56 5 ≠ 0#5 ∨ w.extractLsb' 61 3 = 0b111#3 →
      ∃ r, step s = .next { s with inputs := rest, responses := s.responses ++ [r] } ∧
        statusField r = 6#4 ∧ dataField r = 0)

/-! ## Laws of the frame operations (40_frame_ops.md) -/

/-- R84: DECODE given the `DATA` of ENCODE `x` answers OK with the same `DATA`, whose D1..D5 are `x`, for
both values of `SYNC_CHECK`. -/
def Obligations.DecodeOfEncodedDataIsOk : Prop :=
  ∀ (x : Body) (s : State), ∃ e r d,
    exec (.encodeFrame x) s = .next e ∧ e.responses = s.responses ++ [r] ∧
    exec (decode (0x4000000000000000#64 ||| (dataField r).setWidth 64)) e = .next d ∧
    d.responses = e.responses ++ [r] ∧ statusField r = 0#4 ∧
    dataByte r 1 = x.unitAddress ∧ dataByte r 2 = x.command1 ∧ dataByte r 3 = x.command2 ∧
    dataByte r 4 = x.data1 ∧ dataByte r 5 = x.data2

/-- R85: for bytes 0..5 there is exactly one byte 6 that DECODE accepts (when `SYNC_CHECK`, for each body
exactly one byte 0 and byte 6). -/
def Obligations.ExactlyOneChecksumBytePasses : Prop :=
  ∀ (s : State) (x : Body),
    (s.config.syncCheck = false →
      ∀ b0 : Byte, ∃! b6 : Byte, AnswersCode (.decodeFrame ⟨b0, x, b6⟩) s 0#4) ∧
    (s.config.syncCheck = true →
      ∃! p : Byte × Byte, AnswersCode (.decodeFrame ⟨p.1, x, p.2⟩) s 0#4)

/-- R86: what the checksum detects in a frame DECODE accepts, and what it cannot. -/
def Obligations.WhatTheChecksumDetects : Prop :=
  ∀ (s : State) (f : Frame), AnswersCode (.decodeFrame f) s 0#4 →
    (∀ (k : Fin 7) (b : Byte), k ≠ 0 → b ≠ frameByte f k →
      AnswersCode (.decodeFrame (setFrameByte f k b)) s 2#4) ∧
    (∀ b : Byte, b ≠ f.sync →
      (s.config.syncCheck = false → AnswersCode (.decodeFrame (setFrameByte f 0 b)) s 0#4) ∧
      (s.config.syncCheck = true → AnswersCode (.decodeFrame (setFrameByte f 0 b)) s 3#4)) ∧
    (∀ (j k : Fin 7) (d : Byte), j ≠ k → j ≠ 0 → k ≠ 0 → j ≠ 6 → k ≠ 6 →
      AnswersCode (.decodeFrame
        (setFrameByte (setFrameByte f j (frameByte f j + d)) k (frameByte f k - d))) s 0#4) ∧
    (∀ j k : Fin 7, j ≠ 0 → k ≠ 0 → j ≠ 6 → k ≠ 6 →
      AnswersCode (.decodeFrame
        (setFrameByte (setFrameByte f j (frameByte f k)) k (frameByte f j))) s 0#4)

/-- R51: NOP, ENCODE, DECODE (and an illegal word) issued twice answer the same word twice and leave the
state unchanged; RX_CLEAR twice leaves the state RX_CLEAR leaves once; the second TX_START and later
ones answer TX_BUSY and change nothing. -/
def Obligations.WhichCommandsAreIdempotent : Prop :=
  (∀ (i : Instr) (s : State), writesNoState i = true → ∃ r,
    exec i s = .next { s with responses := s.responses ++ [r] } ∧
    exec i { s with responses := s.responses ++ [r] } =
      .next { s with responses := s.responses ++ [r] ++ [r] }) ∧
  (∀ s t : State, exec .rxClear s = .next t → ∃ r,
    exec .rxClear t = .next { t with responses := t.responses ++ [r] }) ∧
  (∀ (x y : Body) (s t : State), exec (.txStart x) s = .next t →
    exec (.txStart y) t = .next { t with responses := t.responses ++ [responseWord .txBusy 0] })

/-! ## Laws of the channels -/

/-- R102 and R103: in a state that meets the invariant, with a frame in flight, TX_NEXT at index `k`
emits `TX_BUF[k]`, or at 6 the checksum of the body in `TX_BUF`; afterwards `TX_ACC` is the sum of
bytes 1..k mod 256, or 0 after byte 6. -/
def Obligations.EmissionSchedule : Prop :=
  ∀ s : State, StateInv s → s.tx.active = true → ∃ t,
    exec .txNext s = .next t ∧
    (∀ k : Fin 6, s.tx.idx.toNat = k.val →
      t.responses = s.responses ++ [responseWord .ok (byteData s.tx.buf[k])] ∧
      t.tx.acc = BitVec.ofNat 8 (((s.tx.buf.toList.take (k.val + 1)).drop 1).map BitVec.toNat).sum ∧
      t.tx.idx.toNat = k.val + 1 ∧ t.tx.active = true ∧ t.tx.buf = s.tx.buf) ∧
    (s.tx.idx.toNat = 6 →
      t.responses = s.responses ++ [responseWord .ok (byteData
        (checksum ⟨s.tx.buf[1], s.tx.buf[2], s.tx.buf[3], s.tx.buf[4], s.tx.buf[5]⟩))] ∧
      t.tx.acc = 0 ∧ t.tx.idx = 0 ∧ t.tx.active = false)

/-- R122: in a state that meets the invariant, RX_BYTE at index `k` below 6 stores the byte, leaves in
`RX_ACC` the sum of bytes 1..k mod 256 and answers RX_PENDING; at 6 the byte is compared with the
checksum of the body in `RX_BUF`. -/
def Obligations.AcceptanceSchedule : Prop :=
  ∀ (s : State) (b : Byte), StateInv s → ∃ t,
    exec (.rxByte b) s = .next t ∧
    (∀ k : Fin 6, s.rx.idx.toNat = k.val →
      t.responses = s.responses ++ [responseWord .rxPending 0] ∧
      t.rx.buf = s.rx.buf.set k.val b ∧
      t.rx.acc = BitVec.ofNat 8 (((t.rx.buf.toList.take (k.val + 1)).drop 1).map BitVec.toNat).sum ∧
      t.rx.idx.toNat = k.val + 1) ∧
    (s.rx.idx.toNat = 6 →
      t.rx.acc = 0 ∧ t.rx.idx = 0 ∧
      ∃ st d, t.responses = s.responses ++ [responseWord st d] ∧
        (st = .ok ∨ st = .checksumMismatch ∨ st = .syncMismatch) ∧
        (st = .checksumMismatch ↔
          checksum ⟨s.rx.buf[1], s.rx.buf[2], s.rx.buf[3], s.rx.buf[4], s.rx.buf[5]⟩ ≠ b))

/-- R104: from any state with the serializer idle, TX_START `x` followed by seven TX_NEXT, with any other
commands interleaved, answers OK eight times, and the seven bytes are D0..D6 of what ENCODE `x`
answers, in order; every interleaved TX_START answers TX_BUSY; afterwards the serializer is idle and
empty. -/
def Obligations.SerializerEqualsEncode : Prop :=
  ∀ (s : State) (x : Body) (is : List Instr),
    s.tx.active = false → is.countP isTxNext = 6 →
    ∃ e r t,
      exec (.encodeFrame x) s = .next e ∧ e.responses = s.responses ++ [r] ∧
      runCommands (.txStart x :: (is ++ [.txNext])) s = .next t ∧
      (answersTo isTxStart (.txStart x :: (is ++ [.txNext])) s t) =
        responseWord .ok 0 :: List.replicate (is.countP isTxStart) (responseWord .txBusy 0) ∧
      answersTo isTxNext (.txStart x :: (is ++ [.txNext])) s t =
        (List.finRange 7).map (fun k => responseWord .ok (byteData (dataByte r k))) ∧
      t.tx.active = false ∧ t.tx.idx = 0 ∧ t.tx.acc = 0

/-- R123: from any state that meets the invariant with `RX_IDX` = 0, seven RX_BYTE with the bytes of a
frame, with any commands but RX_CLEAR interleaved, answer RX_PENDING six times and then exactly the
word DECODE of that frame answers; afterwards `RX_IDX` = 0 and `RX_ACC` = 0. -/
def Obligations.DeserializerEqualsDecode : Prop :=
  ∀ (s : State) (f : Frame) (is : List Instr),
    StateInv s → s.rx.idx = 0 → is.any isRxClear = false →
    is.filterMap rxOperand =
      [f.sync, f.body.unitAddress, f.body.command1, f.body.command2, f.body.data1, f.body.data2] →
    ∃ d r t,
      exec (.decodeFrame f) s = .next d ∧ d.responses = s.responses ++ [r] ∧
      runCommands (is ++ [.rxByte f.checksum]) s = .next t ∧
      answersTo isRxByte (is ++ [.rxByte f.checksum]) s t =
        List.replicate 6 (responseWord .rxPending 0) ++ [r] ∧
      t.rx.idx = 0 ∧ t.rx.acc = 0

/-- R105: in a state that meets the invariant, only a reset event and the TX_NEXT that emits the seventh
byte take the serializer out of a frame in flight; until then the loaded frame is kept. -/
def Obligations.OnlyResetAbortsAFrame : Prop :=
  ∀ s t : State, StateInv s → s.tx.active = true → step s = .next t →
    (t.tx.active = true ∧ t.tx.buf = s.tx.buf) ∨
    (∃ rest, s.inputs = .reset :: rest) ∨
    (∃ w rest, s.inputs = .command w :: rest ∧ decode w = .txNext ∧ s.tx.idx.toNat = 6)

/-- R125: after RX_BYTE at index 6 answers an error the next RX_BYTE starts a new frame at index 0; the
serializer is as it was; ENCODE and DECODE (with NOP and an illegal word), TX_START and TX_NEXT answer
the same response word, with the same effect, as they would have before it. -/
def Obligations.AFrameErrorBlocksNothing : Prop :=
  ∀ (s t : State) (b : Byte), s.rx.idx = 6 → exec (.rxByte b) s = .next t →
    (t.responses = s.responses ++ [responseWord .checksumMismatch 0] ∨
      t.responses = s.responses ++ [responseWord .syncMismatch 0]) →
    t.tx = s.tx ∧ t.sync = s.sync ∧ t.config = s.config ∧
    (∀ b' : Byte, ∃ u, exec (.rxByte b') t = .next u ∧
      u.responses = t.responses ++ [responseWord .rxPending 0] ∧
      u.rx.idx = 1 ∧ u.rx.acc = 0 ∧ u.rx.buf[0] = b') ∧
    (∀ i : Instr, writesNoState i = true → ∃ r,
      exec i s = .next { s with responses := s.responses ++ [r] } ∧
      exec i t = .next { t with responses := t.responses ++ [r] }) ∧
    (∀ i : Instr, (∃ x, i = .txStart x) ∨ i = .txNext → ∃ c r,
      exec i s = .next { s with tx := c, responses := s.responses ++ [r] } ∧
      exec i t = .next { t with tx := c, responses := t.responses ++ [r] })

/-- R30: no TX command reads or writes RX state and no RX command reads or writes TX state; ENCODE and
DECODE (and NOP and an illegal word) read `SYNC` alone, with the parameters, and write no state. -/
def Obligations.ChannelsAreIndependent : Prop :=
  (∀ (i : Instr) (s t : State), exec i s = .next t →
    ((∃ x, i = .txStart x) ∨ i = .txNext → t.rx = s.rx) ∧
    ((∃ b, i = .rxByte b) ∨ i = .rxClear → t.tx = s.tx) ∧
    (writesNoState i = true → t.tx = s.tx ∧ t.rx = s.rx)) ∧
  (∀ (i : Instr) (s : State) (c : RxChannel), (∃ x, i = .txStart x) ∨ i = .txNext →
    ∃ t, exec i s = .next t ∧ exec i { s with rx := c } = .next { t with rx := c }) ∧
  (∀ (i : Instr) (s : State) (c : TxChannel), (∃ b, i = .rxByte b) ∨ i = .rxClear →
    ∃ t, exec i s = .next t ∧ exec i { s with tx := c } = .next { t with tx := c }) ∧
  (∀ (i : Instr) (s : State) (c : TxChannel) (d : RxChannel), writesNoState i = true →
    ∃ t, exec i s = .next t ∧
      exec i { s with tx := c, rx := d } = .next { t with tx := c, rx := d })

/-- R24: no command can read what earlier ones answered; with other words on the response port before
it, it answers the same word and leaves the same state. -/
def Obligations.EarlierAnswersAreUnobservable : Prop :=
  ∀ (i : Instr) (s : State) (earlier : List ResponseWord), ∃ t r,
    exec i s = .next t ∧ t.responses = s.responses ++ [r] ∧
    exec i { s with responses := earlier } = .next { t with responses := earlier ++ [r] }

/-- R27: no run of the machine can observe what the buffers hold where no rule has written them: two
states that differ there alone drive the same response words for ever. -/
def Obligations.UnwrittenBufferBytesAreUnobservable : Prop :=
  ∀ (n : Nat) (s t : State), SameObservable s t →
    ∃ u v, runSteps n s = .next u ∧ runSteps n t = .next v ∧
      u.responses = v.responses ∧ SameObservable u v

/-! ## Errors (60_exceptions.md) -/

/-- R150: which command answers each code, and when; the reserved codes 7..15 are never produced; an
answer other than OK has `DATA` = 0. -/
def Obligations.WhichCommandRaisesEachStatus : Prop :=
  ∀ (i : Instr) (s : State), StateInv s →
    (AnswersCode i s 0#4 ↔
      i = .nop ∨ (∃ x, i = .encodeFrame x) ∨
      (∃ f, i = .decodeFrame f ∧ checksum f.body = f.checksum ∧
        (s.config.syncCheck = false ∨ f.sync = s.sync)) ∨
      (∃ x, i = .txStart x ∧ s.tx.active = false) ∨
      (i = .txNext ∧ s.tx.active = true) ∨
      (∃ b, i = .rxByte b ∧ s.rx.idx.toNat = 6 ∧ s.rx.acc = b ∧
        (s.config.syncCheck = false ∨ s.rx.buf[0] = s.sync)) ∨
      i = .rxClear) ∧
    (AnswersCode i s 1#4 ↔ ∃ b, i = .rxByte b ∧ s.rx.idx.toNat ≤ 5) ∧
    (AnswersCode i s 2#4 ↔
      (∃ f, i = .decodeFrame f ∧ checksum f.body ≠ f.checksum) ∨
      (∃ b, i = .rxByte b ∧ s.rx.idx.toNat = 6 ∧ s.rx.acc ≠ b)) ∧
    (AnswersCode i s 3#4 ↔ s.config.syncCheck = true ∧
      ((∃ f, i = .decodeFrame f ∧ checksum f.body = f.checksum ∧ f.sync ≠ s.sync) ∨
       (∃ b, i = .rxByte b ∧ s.rx.idx.toNat = 6 ∧ s.rx.acc = b ∧ s.rx.buf[0] ≠ s.sync))) ∧
    (AnswersCode i s 4#4 ↔ ∃ x, i = .txStart x ∧ s.tx.active = true) ∧
    (AnswersCode i s 5#4 ↔ i = .txNext ∧ s.tx.active = false) ∧
    (AnswersCode i s 6#4 ↔ ∃ w, i = .illegal w) ∧
    (∀ c : BitVec 4, 7 ≤ c.toNat → ¬ AnswersCode i s c) ∧
    (∀ (t : State) (r : ResponseWord), exec i s = .next t → t.responses = s.responses ++ [r] →
      statusField r ≠ 0#4 → dataField r = 0)

/-- R151: an error leaves all state as it was, but for the RX_BYTE that completes a frame, which resets
`RX_IDX` and `RX_ACC` whatever it answers. -/
def Obligations.ErrorsArePrecise : Prop :=
  ∀ (i : Instr) (s t : State) (r : ResponseWord), StateInv s →
    exec i s = .next t → t.responses = s.responses ++ [r] →
    ((statusField r).toNat ≤ 1 ∨
      t = { s with responses := s.responses ++ [r] } ∨
      (∃ b, i = .rxByte b ∧ s.rx.idx.toNat = 6)) ∧
    (∀ b, i = .rxByte b → s.rx.idx.toNat = 6 →
      t = { s with rx := { s.rx with idx := 0, acc := 0 }, responses := s.responses ++ [r] })

/-- R152: which error is reported when several apply: ILLEGAL_OP before anything else; then, for DECODE
and the seventh RX_BYTE, CHECKSUM_MISMATCH before SYNC_MISMATCH; for TX_START TX_BUSY and for TX_NEXT
TX_IDLE. -/
def Obligations.ErrorPriority : Prop :=
  (∀ (s t : State) (w : CommandWord) (rest : List HostEvent),
    s.inputs = .command w :: rest → w.extractLsb' 56 5 ≠ 0#5 ∨ w.extractLsb' 61 3 = 0b111#3 →
    step s = .next t → t.responses = s.responses ++ [responseWord .illegalOp 0]) ∧
  (∀ (f : Frame) (s : State), checksum f.body ≠ f.checksum → f.sync ≠ s.sync →
    s.config.syncCheck = true → AnswersCode (.decodeFrame f) s 2#4) ∧
  (∀ (b : Byte) (s : State), s.rx.idx = 6 → s.rx.acc ≠ b → s.rx.buf[0] ≠ s.sync →
    s.config.syncCheck = true → AnswersCode (.rxByte b) s 2#4) ∧
  (∀ (x : Body) (s : State), s.tx.active = true → AnswersCode (.txStart x) s 4#4) ∧
  (∀ s : State, s.tx.active = false → AnswersCode .txNext s 5#4)

/-- R187: TX_NEXT that finds no frame and TX_NEXT that emits byte 0x00, at any legal index (a byte of
`TX_BUF` at 0..5, the checksum at 6), both have `DATA` = 0 and differ in `STATUS`. -/
def Obligations.OnlyStatusTellsIdleFromByteZero : Prop :=
  ∀ (s t u v : State) (r q : ResponseWord),
    s.tx.active = false → t.tx.active = true →
    (∀ k : Fin 6, t.tx.idx.toNat = k.val → t.tx.buf[k] = 0) →
    (t.tx.idx.toNat = 6 → t.tx.acc = 0) → t.tx.idx.toNat ≤ 6 →
    exec .txNext s = .next u → u.responses = s.responses ++ [r] →
    exec .txNext t = .next v → v.responses = t.responses ++ [q] →
    dataField r = 0 ∧ dataField q = 0 ∧ statusField r ≠ statusField q

/-! ## Assembler and pseudo-instructions (30_encoding.md R69 to R72) -/

/-- R49, R69, R71: the assembler refuses a natural operand above 255 and never reduces it, and refuses a
number of operands that is not the form's. Whatever else it takes, each form gives its operation with
exactly the operand bytes written, and the word of that command decodes to it. A line of text gives
exactly what its own mnemonic and operands give, and a comment after `;` changes nothing. The model's
choices, log 8: PAN_RIGHT and TX_PAN_RIGHT may be written in a line, and how a line's text is cut into
mnemonic and operands and read as numbers (white space, letter case, leading zeros). -/
def Obligations.AssemblerRefusesOperandsAbove255 : Prop :=
  (∀ (op : AsmOp) (ns : List Nat), (∃ n ∈ ns, 255 < n) → assemble op ns = none) ∧
  (∀ (op : AsmOp) (ns : List Nat), ns.length ≠ op.operandCount → assemble op ns = none) ∧
  (∀ (op : AsmOp) (ns : List Nat) (i : Instr), assemble op ns = some i →
    i.wellFormed = true ∧ (∀ w, i ≠ .illegal w) ∧ decode (encode i) = i ∧
    ns.length = op.operandCount ∧ ∀ n ∈ ns, n ≤ 255) ∧
  (assemble .nop [] = some .nop ∧ assemble .txNext [] = some .txNext ∧
    assemble .rxClear [] = some .rxClear) ∧
  (∀ a c1 c2 d1 d2 : Nat, a ≤ 255 → c1 ≤ 255 → c2 ≤ 255 → d1 ≤ 255 → d2 ≤ 255 →
    ∃ x, assemble .encode [a, c1, c2, d1, d2] = some (.encodeFrame x) ∧
      assemble .txStart [a, c1, c2, d1, d2] = some (.txStart x) ∧
      x.unitAddress.toNat = a ∧ x.command1.toNat = c1 ∧ x.command2.toNat = c2 ∧
      x.data1.toNat = d1 ∧ x.data2.toNat = d2) ∧
  (∀ b0 b1 b2 b3 b4 b5 b6 : Nat, b0 ≤ 255 → b1 ≤ 255 → b2 ≤ 255 → b3 ≤ 255 → b4 ≤ 255 →
    b5 ≤ 255 → b6 ≤ 255 →
    ∃ f, assemble .decode [b0, b1, b2, b3, b4, b5, b6] = some (.decodeFrame f) ∧
      f.sync.toNat = b0 ∧ f.body.unitAddress.toNat = b1 ∧ f.body.command1.toNat = b2 ∧
      f.body.command2.toNat = b3 ∧ f.body.data1.toNat = b4 ∧ f.body.data2.toNat = b5 ∧
      f.checksum.toNat = b6) ∧
  (∀ n : Nat, n ≤ 255 → ∃ b, assemble .rxByte [n] = some (.rxByte b) ∧ b.toNat = n) ∧
  (∀ a v : Nat, a ≤ 255 → v ≤ 255 → ∃ addr speed : Byte,
    assemble .panRight [a, v] = some (expandPanRight addr speed) ∧
    assemble .txPanRight [a, v] = some (expandTxPanRight addr speed) ∧
    addr.toNat = a ∧ speed.toNat = v) ∧
  (∀ (line : List Char) (i : Instr), assembleLine line = some i ↔
    ∃ op ns, asmOpOf (lineMnemonic line) = some op ∧ asmOperands (lineOperands line) = some ns ∧
      assemble op ns = some i) ∧
  (∀ line comment : List Char, assembleLine (line ++ ';' :: comment) = assembleLine line)

/-- R71, R72 and 20_memory.md R45, for every action table: what the pseudo-instructions expand to. -/
def Obligations.PseudoInstructionsExpand : Prop :=
  (∀ addr speed : Byte,
    expandPanRight addr speed = .encodeFrame ⟨addr, 0x00, 0x02, speed, 0x00⟩ ∧
    expandTxPanRight addr speed = .txStart ⟨addr, 0x00, 0x02, speed, 0x00⟩) ∧
  (∀ (t : ActionTable) (a : ActionName) (e : ActionEntry) (addr : Byte) (p : ActionOperand)
      (d1 d2 : Byte),
    lookupAction t a = some e →
    ((e.shape = .fixed d1 d2 ∧ p = .absent) ∨ (e.shape = .liveD1 d2 ∧ p = .byte d1) ∨
      (e.shape = .liveD2 d1 ∧ p = .byte d2) ∨ (e.shape = .position ∧ p = .position (d1 ++ d2))) →
    expandEncodeAct t a addr p = some (.encodeFrame ⟨addr, e.cmd1, e.cmd2, d1, d2⟩) ∧
    expandTxAct t a addr p = some (.txStart ⟨addr, e.cmd1, e.cmd2, d1, d2⟩))

/-- R70: the word of each assembly form, by the spec's formulas on naturals. -/
def Obligations.AssemblyFollowsTheEncodingFormulas : Prop :=
  ((assemble .nop []).map encode = some 0x0000000000000000 ∧
    (assemble .txNext []).map encode = some 0x8000000000000000 ∧
    (assemble .rxClear []).map encode = some 0xC000000000000000) ∧
  (∀ a c1 c2 d1 d2 : Nat, a ≤ 255 → c1 ≤ 255 → c2 ≤ 255 → d1 ≤ 255 → d2 ≤ 255 →
    ∃ i j, assemble .encode [a, c1, c2, d1, d2] = some i ∧
      assemble .txStart [a, c1, c2, d1, d2] = some j ∧
      (encode i).toNat = 0x2000000000000000 ||| a <<< 40 ||| c1 <<< 32 ||| c2 <<< 24 ||| d1 <<< 16
        ||| d2 <<< 8 ∧
      (encode j).toNat = 0x6000000000000000 ||| a <<< 40 ||| c1 <<< 32 ||| c2 <<< 24 ||| d1 <<< 16
        ||| d2 <<< 8) ∧
  (∀ b0 b1 b2 b3 b4 b5 b6 : Nat, b0 ≤ 255 → b1 ≤ 255 → b2 ≤ 255 → b3 ≤ 255 → b4 ≤ 255 →
    b5 ≤ 255 → b6 ≤ 255 →
    ∃ i, assemble .decode [b0, b1, b2, b3, b4, b5, b6] = some i ∧
      (encode i).toNat = 0x4000000000000000 ||| b0 <<< 48 ||| b1 <<< 40 ||| b2 <<< 32 ||| b3 <<< 24
        ||| b4 <<< 16 ||| b5 <<< 8 ||| b6) ∧
  (∀ b : Nat, b ≤ 255 →
    ∃ i, assemble .rxByte [b] = some i ∧ (encode i).toNat = 0xA000000000000000 ||| b)
end

