-- ==== Sys2Proof/Laws/Assembler.lean ====
section
/-! SUPPORT. What the assembler answers, said once: later proofs cite these lemmas instead of unfolding
it. -/

namespace Sys2Proof.Machine

/-- Operands are taken as they are or not at all (20_memory.md R49). -/
theorem asmBytes_eq (ns : List Nat) :
    asmBytes ns = if ∀ n ∈ ns, n ≤ 255 then some (ns.map (BitVec.ofNat 8)) else none := by
  induction ns with
  | nil => rfl
  | cons n ns ih =>
    unfold asmBytes
    rw [ih]
    by_cases h : n ≤ 255
    · by_cases hs : ∀ m ∈ ns, m ≤ 255
      · rw [if_pos hs, if_pos (by simpa [h] using hs : ∀ m ∈ n :: ns, m ≤ 255)]
        simp [asmByte, h]
      · rw [if_neg hs,
          if_neg (fun H => hs fun m hm => H m (List.mem_cons_of_mem n hm) : ¬ ∀ m ∈ n :: ns, m ≤ 255)]
        simp [asmByte, h]
    · rw [if_neg (fun H => h (H n List.mem_cons_self) : ¬ ∀ m ∈ n :: ns, m ≤ 255)]
      simp [asmByte, h]

/-- The operands' range is checked before the form. -/
theorem assemble_eq (op : AsmOp) (ns : List Nat) :
    assemble op ns =
      if ∀ n ∈ ns, n ≤ 255 then asmForm op (ns.map (BitVec.ofNat 8)) else none := by
  unfold assemble
  rw [asmBytes_eq]
  by_cases h : ∀ n ∈ ns, n ≤ 255
  · rw [if_pos h, if_pos h]
  · rw [if_neg h, if_neg h]

/-- `bodyOf` takes five bytes. -/
theorem bodyOf_some (bs : List Byte) (x : Body) (h : bodyOf bs = some x) : bs.length = 5 := by
  unfold bodyOf at h
  split at h
  · rfl
  · cases h

/-- `frameOfBytes` takes seven bytes. -/
theorem frameOfBytes_some (bs : List Byte) (f : Frame) (h : frameOfBytes bs = some f) :
    bs.length = 7 := by
  unfold frameOfBytes at h
  split at h
  · rfl
  · cases h

/-- Everything a form can answer: its operation, from as many bytes as the form takes. -/
theorem asmForm_cases (op : AsmOp) (bs : List Byte) (i : Instr) (h : asmForm op bs = some i) :
    bs.length = op.operandCount ∧ i.wellFormed = true ∧ ∀ w, i ≠ .illegal w := by
  cases op with
  | nop | txNext | rxClear =>
    simp only [asmForm] at h
    split at h
    · cases h
      exact ⟨‹_›, rfl, nofun⟩
    · cases h
  | encode | txStart =>
    obtain ⟨x, hx, rfl⟩ := Option.map_eq_some_iff.1 h
    exact ⟨bodyOf_some bs x hx, rfl, nofun⟩
  | decode =>
    obtain ⟨f, hf, rfl⟩ := Option.map_eq_some_iff.1 h
    exact ⟨frameOfBytes_some bs f hf, rfl, nofun⟩
  | rxByte | panRight | txPanRight =>
    simp only [asmForm] at h
    split at h
    · cases h
      exact ⟨rfl, rfl, nofun⟩
    · cases h

/-- Everything a line can answer: what its own mnemonic and operands assemble to. -/
theorem assembleLine_eq_some_iff (line : List Char) (i : Instr) :
    assembleLine line = some i ↔
      ∃ op ns, asmOpOf (lineMnemonic line) = some op ∧ asmOperands (lineOperands line) = some ns ∧
        assemble op ns = some i := by
  unfold assembleLine
  cases asmOpOf (lineMnemonic line) <;> cases asmOperands (lineOperands line) <;> simp

/-- A comment is no part of a line's text. -/
theorem lineText_comment (line comment : List Char) :
    lineText (line ++ ';' :: comment) = lineText line := by
  unfold lineText
  congr 1
  induction line with
  | nil => rfl
  | cons c cs ih => simp only [List.cons_append, List.takeWhile_cons, ih]

end Sys2Proof.Machine
end

