-- ==== Sys2Proof/Laws/Decode.lean ====
section
/-! SUPPORT. The fields of a command word: a word is its fields, fields pass through `and` and `or`, and
an encoded byte stands in its own field and in no other. -/

namespace Sys2Proof

/-! ## Fields as numbers -/

theorem opField_toNat (w : CommandWord) : (opField w).toNat = w.toNat / 2 ^ 61 := by
  have := w.isLt
  simp only [opField, BitVec.extractLsb'_toNat, Nat.shiftRight_eq_div_pow]
  omega

theorem rsvField_toNat (w : CommandWord) : (rsvField w).toNat = w.toNat / 2 ^ 56 % 32 := by
  simp [rsvField, BitVec.extractLsb'_toNat, Nat.shiftRight_eq_div_pow]

theorem operandByte_toNat (w : CommandWord) (k : Fin 7) :
    (operandByte w k).toNat = w.toNat / 2 ^ (48 - 8 * k.val) % 256 := by
  simp [operandByte, BitVec.extractLsb'_toNat, Nat.shiftRight_eq_div_pow]

/-- A word is its fields (30_encoding.md R60): `OP`, `RSV` and the seven operand bytes. -/
theorem word_ext (w v : CommandWord) (ho : opField w = opField v) (hr : rsvField w = rsvField v)
    (hb : ∀ k : Fin 7, operandByte w k = operandByte v k) : w = v := by
  have ho' := congrArg BitVec.toNat ho
  have hr' := congrArg BitVec.toNat hr
  have hb' := fun k => congrArg BitVec.toNat (hb k)
  rw [opField_toNat, opField_toNat] at ho'
  rw [rsvField_toNat, rsvField_toNat] at hr'
  simp only [operandByte_toNat] at hb'
  have h0 := hb' 0
  have h1 := hb' 1
  have h2 := hb' 2
  have h3 := hb' 3
  have h4 := hb' 4
  have h5 := hb' 5
  have h6 := hb' 6
  apply BitVec.eq_of_toNat_eq
  simp at h0 h1 h2 h3 h4 h5 h6
  omega

/-! ## Fields of `and` and `or` -/

theorem opField_or (w v : CommandWord) : opField (w ||| v) = opField w ||| opField v :=
  BitVec.extractLsb'_or ..

theorem rsvField_or (w v : CommandWord) : rsvField (w ||| v) = rsvField w ||| rsvField v :=
  BitVec.extractLsb'_or ..

theorem operandByte_or (w v : CommandWord) (k : Fin 7) :
    operandByte (w ||| v) k = operandByte w k ||| operandByte v k :=
  BitVec.extractLsb'_or ..

theorem opField_and (w v : CommandWord) : opField (w &&& v) = opField w &&& opField v :=
  BitVec.extractLsb'_and ..

theorem rsvField_and (w v : CommandWord) : rsvField (w &&& v) = rsvField w &&& rsvField v :=
  BitVec.extractLsb'_and ..

theorem operandByte_and (w v : CommandWord) (k : Fin 7) :
    operandByte (w &&& v) k = operandByte w k &&& operandByte v k :=
  BitVec.extractLsb'_and ..

/-! ## Fields of an encoded byte -/

theorem shifted_toNat (b : Byte) (n : Nat) (h : n ≤ 56) : (shifted b n).toNat = b.toNat * 2 ^ n := by
  have hb : b.toNat < 2 ^ 8 := b.isLt
  have hn : 2 ^ n ≤ 2 ^ 56 := Nat.pow_le_pow_right (by decide) h
  have hlt : b.toNat * 2 ^ n < 2 ^ 64 :=
    calc b.toNat * 2 ^ n < 2 ^ 8 * 2 ^ n := Nat.mul_lt_mul_of_pos_right hb (Nat.two_pow_pos n)
      _ ≤ 2 ^ 8 * 2 ^ 56 := Nat.mul_le_mul_left _ hn
      _ = 2 ^ 64 := by decide
  have hs : b.toNat % 2 ^ 64 = b.toNat := Nat.mod_eq_of_lt (by omega)
  simp only [shifted, BitVec.toNat_shiftLeft, BitVec.toNat_setWidth, Nat.shiftLeft_eq, hs]
  exact Nat.mod_eq_of_lt hlt

/-- A byte shifted to operand place `j` is in no header field. -/
theorem opField_shifted (b : Byte) (n : Nat) (h : n ≤ 48) : opField (shifted b n) = 0 := by
  have hb : b.toNat < 2 ^ 8 := b.isLt
  have hn : 2 ^ n ≤ 2 ^ 48 := Nat.pow_le_pow_right (by decide) h
  apply BitVec.eq_of_toNat_eq
  rw [opField_toNat, shifted_toNat b n (by omega)]
  have : b.toNat * 2 ^ n < 2 ^ 61 :=
    calc b.toNat * 2 ^ n ≤ 2 ^ 8 * 2 ^ 48 := Nat.mul_le_mul hb.le hn
      _ < 2 ^ 61 := by decide
  rw [Nat.div_eq_of_lt this]
  rfl

/-- A byte shifted to operand place `j` is in no header field. -/
theorem rsvField_shifted (b : Byte) (n : Nat) (h : n ≤ 48) : rsvField (shifted b n) = 0 := by
  have hb : b.toNat < 2 ^ 8 := b.isLt
  have hn : 2 ^ n ≤ 2 ^ 48 := Nat.pow_le_pow_right (by decide) h
  apply BitVec.eq_of_toNat_eq
  rw [rsvField_toNat, shifted_toNat b n (by omega)]
  have : b.toNat * 2 ^ n < 2 ^ 56 :=
    calc b.toNat * 2 ^ n < 2 ^ 8 * 2 ^ n := Nat.mul_lt_mul_of_pos_right hb (Nat.two_pow_pos n)
      _ ≤ 2 ^ 8 * 2 ^ 48 := Nat.mul_le_mul_left _ hn
      _ = 2 ^ 56 := by decide
  rw [Nat.div_eq_of_lt this]
  rfl

/-- A byte shifted to operand place `j` is operand byte `j` and leaves the others 0. -/
theorem operandByte_shifted (b : Byte) (j k : Fin 7) :
    operandByte (shifted b (48 - 8 * j.val)) k = if j = k then b else 0 := by
  have hb : b.toNat < 256 := b.isLt
  apply BitVec.eq_of_toNat_eq
  rw [operandByte_toNat, shifted_toNat b _ (by omega)]
  fin_cases j <;> fin_cases k <;> simp <;> omega

/-- A body's bits stand in no header field. -/
theorem opField_bodyBits (x : Body) : opField (bodyBits x) = 0 := by
  simp only [bodyBits, opField_or]
  rw [opField_shifted _ 40 (by decide), opField_shifted _ 32 (by decide),
    opField_shifted _ 24 (by decide), opField_shifted _ 16 (by decide),
    opField_shifted _ 8 (by decide)]
  rfl

/-- A body's bits stand in no header field. -/
theorem rsvField_bodyBits (x : Body) : rsvField (bodyBits x) = 0 := by
  simp only [bodyBits, rsvField_or]
  rw [rsvField_shifted _ 40 (by decide), rsvField_shifted _ 32 (by decide),
    rsvField_shifted _ 24 (by decide), rsvField_shifted _ 16 (by decide),
    rsvField_shifted _ 8 (by decide)]
  rfl

/-- A word is illegal exactly when its header fields say so (30_encoding.md R64). -/
theorem illegalWord_iff (w : CommandWord) :
    illegalWord w = true ↔ opField w = 0b111#3 ∨ rsvField w ≠ 0#5 := by
  simp [illegalWord, opField, rsvField]

/-! ## What the decoder reads, operation by operation (30_encoding.md R65) -/

theorem decode_reserved (w : CommandWord) (h : rsvField w ≠ 0#5) : decode w = .illegal w :=
  if_pos h

theorem decode_nop (w : CommandWord) (hr : rsvField w = 0#5) (ho : opField w = 0b000#3) :
    decode w = .nop := by
  unfold decode
  rw [if_neg (by simp [hr]), ho]
  rfl

theorem decode_encodeFrame (w : CommandWord) (hr : rsvField w = 0#5) (ho : opField w = 0b001#3) :
    decode w = .encodeFrame (bodyOperands w) := by
  unfold decode
  rw [if_neg (by simp [hr]), ho]
  rfl

theorem decode_decodeFrame (w : CommandWord) (hr : rsvField w = 0#5) (ho : opField w = 0b010#3) :
    decode w = .decodeFrame (frameOperands w) := by
  unfold decode
  rw [if_neg (by simp [hr]), ho]
  rfl

theorem decode_txStart (w : CommandWord) (hr : rsvField w = 0#5) (ho : opField w = 0b011#3) :
    decode w = .txStart (bodyOperands w) := by
  unfold decode
  rw [if_neg (by simp [hr]), ho]
  rfl

theorem decode_txNext (w : CommandWord) (hr : rsvField w = 0#5) (ho : opField w = 0b100#3) :
    decode w = .txNext := by
  unfold decode
  rw [if_neg (by simp [hr]), ho]
  rfl

theorem decode_rxByte (w : CommandWord) (hr : rsvField w = 0#5) (ho : opField w = 0b101#3) :
    decode w = .rxByte (operandByte w 6) := by
  unfold decode
  rw [if_neg (by simp [hr]), ho]
  rfl

theorem decode_rxClear (w : CommandWord) (hr : rsvField w = 0#5) (ho : opField w = 0b110#3) :
    decode w = .rxClear := by
  unfold decode
  rw [if_neg (by simp [hr]), ho]
  rfl

theorem decode_reservedOp (w : CommandWord) (ho : opField w = 0b111#3) : decode w = .illegal w := by
  by_cases hr : rsvField w = 0#5
  · unfold decode
    rw [if_neg (by simp [hr]), ho]
    rfl
  · exact decode_reserved w hr

end Sys2Proof
end

