-- ==== Sys2Proof/Laws/State.lean ====
section
/-! SUPPORT. One lemma per field per update, so that no proof unfolds a record update. -/

namespace Sys2Proof.Machine

@[simp] theorem respond_config (st : Status) (d : Data) (s : State) :
    (respond st d s).config = s.config := rfl
@[simp] theorem respond_sync (st : Status) (d : Data) (s : State) :
    (respond st d s).sync = s.sync := rfl
@[simp] theorem respond_tx (st : Status) (d : Data) (s : State) : (respond st d s).tx = s.tx := rfl
@[simp] theorem respond_rx (st : Status) (d : Data) (s : State) : (respond st d s).rx = s.rx := rfl
@[simp] theorem respond_inputs (st : Status) (d : Data) (s : State) :
    (respond st d s).inputs = s.inputs := rfl
@[simp] theorem respond_responses (st : Status) (d : Data) (s : State) :
    (respond st d s).responses = s.responses ++ [responseWord st d] := rfl
@[simp] theorem respond_freeCount (st : Status) (d : Data) (s : State) :
    (respond st d s).freeCount = s.freeCount := rfl

@[simp] theorem raise_config (e : Status) (s : State) : (raise e s).config = s.config := rfl
@[simp] theorem raise_sync (e : Status) (s : State) : (raise e s).sync = s.sync := rfl
@[simp] theorem raise_tx (e : Status) (s : State) : (raise e s).tx = s.tx := rfl
@[simp] theorem raise_rx (e : Status) (s : State) : (raise e s).rx = s.rx := rfl
@[simp] theorem raise_inputs (e : Status) (s : State) : (raise e s).inputs = s.inputs := rfl
@[simp] theorem raise_responses (e : Status) (s : State) :
    (raise e s).responses = s.responses ++ [responseWord e 0] := rfl
@[simp] theorem raise_freeCount (e : Status) (s : State) :
    (raise e s).freeCount = s.freeCount := rfl

@[simp] theorem takeInput_config (s : State) : (takeInput s).config = s.config := rfl
@[simp] theorem takeInput_sync (s : State) : (takeInput s).sync = s.sync := rfl
@[simp] theorem takeInput_tx (s : State) : (takeInput s).tx = s.tx := rfl
@[simp] theorem takeInput_rx (s : State) : (takeInput s).rx = s.rx := rfl
@[simp] theorem takeInput_inputs (s : State) : (takeInput s).inputs = s.inputs.tail := rfl
@[simp] theorem takeInput_responses (s : State) : (takeInput s).responses = s.responses := rfl
@[simp] theorem takeInput_freeCount (s : State) : (takeInput s).freeCount = s.freeCount := rfl

@[simp] theorem resetEvent_config (s : State) : (resetEvent s).config = s.config := rfl
@[simp] theorem resetEvent_sync (s : State) : (resetEvent s).sync = s.sync := rfl
@[simp] theorem resetEvent_tx_idx (s : State) : (resetEvent s).tx.idx = 0 := rfl
@[simp] theorem resetEvent_tx_acc (s : State) : (resetEvent s).tx.acc = 0 := rfl
@[simp] theorem resetEvent_tx_active (s : State) : (resetEvent s).tx.active = false := rfl
@[simp] theorem resetEvent_rx_idx (s : State) : (resetEvent s).rx.idx = 0 := rfl
@[simp] theorem resetEvent_rx_acc (s : State) : (resetEvent s).rx.acc = 0 := rfl
@[simp] theorem resetEvent_inputs (s : State) : (resetEvent s).inputs = s.inputs := rfl
@[simp] theorem resetEvent_responses (s : State) : (resetEvent s).responses = s.responses := rfl
@[simp] theorem resetEvent_freeCount (s : State) :
    (resetEvent s).freeCount = s.freeCount + 12 := rfl

@[simp] theorem txLoad_buf (sync : Byte) (x : Body) : (txLoad sync x).buf = bufOf sync x := rfl
@[simp] theorem txLoad_idx (sync : Byte) (x : Body) : (txLoad sync x).idx = 0 := rfl
@[simp] theorem txLoad_acc (sync : Byte) (x : Body) : (txLoad sync x).acc = 0 := rfl
@[simp] theorem txLoad_active (sync : Byte) (x : Body) : (txLoad sync x).active = true := rfl

@[simp] theorem rxRestart_buf (c : RxChannel) : (rxRestart c).buf = c.buf := rfl
@[simp] theorem rxRestart_idx (c : RxChannel) : (rxRestart c).idx = 0 := rfl
@[simp] theorem rxRestart_acc (c : RxChannel) : (rxRestart c).acc = 0 := rfl

@[simp] theorem construct_config (c : Config) : (State.construct c).config = c := rfl
@[simp] theorem construct_sync (c : Config) : (State.construct c).sync = c.syncByte := rfl
@[simp] theorem construct_tx_idx (c : Config) : (State.construct c).tx.idx = 0 := rfl
@[simp] theorem construct_tx_acc (c : Config) : (State.construct c).tx.acc = 0 := rfl
@[simp] theorem construct_tx_active (c : Config) : (State.construct c).tx.active = false := rfl
@[simp] theorem construct_rx_idx (c : Config) : (State.construct c).rx.idx = 0 := rfl
@[simp] theorem construct_rx_acc (c : Config) : (State.construct c).rx.acc = 0 := rfl
@[simp] theorem construct_inputs (c : Config) : (State.construct c).inputs = [] := rfl
@[simp] theorem construct_responses (c : Config) : (State.construct c).responses = [] := rfl

end Sys2Proof.Machine
end

