-- ==== Sys2Proof/Laws/Ops.lean ====
section
/-! SUPPORT. For each shared operation, everything it can do, said once. -/

namespace Sys2Proof.Machine

/-! ## Bytes and sums -/

/-- Accumulating is byte addition. -/
theorem accumulate_eq_add (acc b : Byte) : accumulate acc b = acc + b := by
  apply BitVec.eq_of_toNat_eq
  simp [accumulate]

/-- The checksum is the byte sum. -/
theorem checksum_eq_add (x : Body) :
    checksum x = x.unitAddress + x.command1 + x.command2 + x.data1 + x.data2 := by
  apply BitVec.eq_of_toNat_eq
  simp [checksum]

/-! ## The response word -/

/-- `STATUS` of a response is the code it was made with. -/
@[simp] theorem statusField_responseWord (st : Status) (d : Data) :
    statusField (responseWord st d) = st.code := by
  unfold statusField responseWord
  grind

/-- Distinct statuses have distinct codes. -/
theorem status_code_injective (a b : Status) (h : a.code = b.code) : a = b := by
  cases a <;> cases b <;> first | rfl | (exact absurd h (by decide))

/-- `DATA` of a response is the data it was made with. -/
@[simp] theorem dataField_responseWord (st : Status) (d : Data) :
    dataField (responseWord st d) = d := by
  unfold dataField responseWord
  grind

/-- Bits [59:56] are always 0. -/
@[simp] theorem zeroField_responseWord (st : Status) (d : Data) :
    zeroField (responseWord st d) = 0#4 := by
  unfold zeroField responseWord
  grind

/-- A response word says its status and its data. -/
theorem responseWord_injective (a b : Status) (d e : Data)
    (h : responseWord a d = responseWord b e) : a = b ∧ d = e :=
  ⟨status_code_injective a b (by simpa using congrArg statusField h),
    by simpa using congrArg dataField h⟩

/-- The result bytes of a frame's data are the frame's bytes. -/
theorem dataByte_frameData (st : Status) (f : Frame) (k : Fin 7) :
    dataByte (responseWord st (frameData f)) k = frameByte f k := by
  unfold dataByte responseWord frameData
  fin_cases k <;> simp [frameByte] <;> grind

/-- The byte of a one-byte answer is D6. -/
theorem dataByte_byteData (st : Status) (b : Byte) :
    dataByte (responseWord st (byteData b)) 6 = b := by
  unfold dataByte responseWord byteData
  simp
  grind

/-! ## The verdict on a frame -/

/-- The three answers `answerFrame` can give, each with its condition. -/
theorem answerFrame_cases (acc : Byte) (f : Frame) (s : State) :
    (acc ≠ f.checksum ∧ answerFrame acc f s = raise .checksumMismatch s) ∨
    (acc = f.checksum ∧ s.config.syncCheck = true ∧ f.sync ≠ s.sync ∧
      answerFrame acc f s = raise .syncMismatch s) ∨
    (acc = f.checksum ∧ (s.config.syncCheck = false ∨ f.sync = s.sync) ∧
      answerFrame acc f s = respond .ok (frameData f) s) := by
  unfold answerFrame
  by_cases h : acc = f.checksum <;> by_cases hc : s.config.syncCheck = true <;>
    by_cases hs : f.sync = s.sync <;> simp_all

/-- Whatever the verdict, the only change is one more response word. -/
theorem answerFrame_frame (acc : Byte) (f : Frame) (s : State) :
    ∃ st d, answerFrame acc f s = respond st d s ∧ (st ≠ .ok → d = 0) := by
  obtain ⟨-, h⟩ | ⟨-, -, -, h⟩ | ⟨-, -, h⟩ := answerFrame_cases acc f s
  · exact ⟨_, 0, h, fun _ => rfl⟩
  · exact ⟨_, 0, h, fun _ => rfl⟩
  · exact ⟨_, _, h, fun hne => absurd rfl hne⟩

/-! ## The serializer's moves -/

/-- At an index 0..5 the byte emitted is the buffer's entry. -/
theorem txByte_of_le (c : TxChannel) (h : c.idx.toNat ≤ 5) :
    txByte c = c.buf[c.idx.toNat]'(by omega) := by
  simp [txByte, h]

/-- At index 6 it is the accumulator. -/
theorem txByte_of_six (c : TxChannel) (h : c.idx = 6) : txByte c = c.acc := by
  simp [txByte, h]

/-- At an index 0..5 the channel moves on by one and stays active. -/
theorem txAdvance_of_le (c : TxChannel) (h : c.idx.toNat ≤ 5) :
    txAdvance c =
      { c with
        idx := c.idx + 1
        acc := if 1 ≤ c.idx.toNat then accumulate c.acc (txByte c) else c.acc } := by
  simp [txAdvance, h]

/-- At index 6 it is cleared to idle. -/
theorem txAdvance_of_six (c : TxChannel) (h : c.idx = 6) :
    txAdvance c = { c with active := false, idx := 0, acc := 0 } := by
  simp [txAdvance, h]

/-- Emitting never writes the buffer. -/
@[simp] theorem txAdvance_buf (c : TxChannel) : (txAdvance c).buf = c.buf := by
  unfold txAdvance
  split <;> rfl

/-! ## The deserializer's moves -/

/-- At an index 0..5 the byte is stored at the index and the channel moves on by one. -/
theorem rxStore_of_le (c : RxChannel) (b : Byte) (h : c.idx.toNat ≤ 5) :
    rxStore c b =
      { buf := c.buf.set c.idx.toNat b (by omega)
        idx := c.idx + 1
        acc := if 1 ≤ c.idx.toNat then accumulate c.acc b else c.acc } := by
  simp [rxStore, h]

/-- An index 0..5 moves on by exactly one: it does not wrap. -/
theorem idx_succ_toNat (k : BitVec 3) (h : k.toNat ≤ 5) : (k + 1).toNat = k.toNat + 1 := by
  bv_omega

end Sys2Proof.Machine
end

