-- ==== Sys2Proof/Laws/Exec.lean ====
section
/-! SUPPORT. What executing a command and taking a step can do, said once; later proofs cite these
lemmas instead of unfolding `exec` and `step`. -/

namespace Sys2Proof.Machine

/-- Every command only ever changes one of the channels and drives one response word: the four shapes
of a next state. -/
theorem exec_cases (i : Instr) (s : State) :
    (∃ st d, exec i s = .next (respond st d s)) ∨
    (∃ x, i = .txStart x ∧ s.tx.active = false ∧
      exec i s = .next (respond .ok 0 { s with tx := txLoad s.sync x })) ∨
    (i = .txNext ∧ s.tx.active = true ∧
      exec i s = .next (respond .ok (byteData (txByte s.tx)) { s with tx := txAdvance s.tx })) ∨
    (∃ b, i = .rxByte b ∧ s.rx.idx.toNat ≤ 5 ∧
      exec i s = .next (respond .rxPending 0 { s with rx := rxStore s.rx b })) ∨
    (∃ st d, ((∃ b, i = .rxByte b ∧ ¬ s.rx.idx.toNat ≤ 5) ∨ i = .rxClear) ∧
      exec i s = .next (respond st d { s with rx := rxRestart s.rx })) := by
  cases i with
  | nop => exact .inl ⟨_, _, rfl⟩
  | encodeFrame x => exact .inl ⟨_, _, rfl⟩
  | decodeFrame f =>
    obtain ⟨st, d, h, -⟩ := answerFrame_frame (checksum f.body) f s
    exact .inl ⟨st, d, congrArg _ h⟩
  | txStart x =>
    cases ha : s.tx.active with
    | false => exact .inr (.inl ⟨x, rfl, rfl, by simp [exec, execTxStart, ha]⟩)
    | true => exact .inl ⟨.txBusy, 0, by simp [exec, execTxStart, ha, raise]⟩
  | txNext =>
    cases ha : s.tx.active with
    | true => exact .inr (.inr (.inl ⟨rfl, rfl, by simp [exec, execTxNext, ha]⟩))
    | false => exact .inl ⟨.txIdle, 0, by simp [exec, execTxNext, ha, raise]⟩
  | rxByte b =>
    by_cases h : s.rx.idx.toNat ≤ 5
    · exact .inr (.inr (.inr (.inl ⟨b, rfl, h, by simp [exec, execRxByte, h]⟩)))
    · obtain ⟨st, d, ha, -⟩ :=
        answerFrame_frame s.rx.acc (frameOf s.rx.buf b) { s with rx := rxRestart s.rx }
      exact .inr (.inr (.inr (.inr ⟨st, d, .inl ⟨b, rfl, h⟩, by simp [exec, execRxByte, h, ha]⟩)))
  | rxClear => exact .inr (.inr (.inr (.inr ⟨.ok, 0, .inr rfl, rfl⟩)))
  | illegal w => exact .inl ⟨_, _, rfl⟩

/-- The frame every command keeps: parameters, `SYNC`, the offered events and the count of free values
stay, and exactly one response word is added. -/
theorem exec_frame (i : Instr) (s t : State) (h : exec i s = .next t) :
    t.config = s.config ∧ t.sync = s.sync ∧ t.inputs = s.inputs ∧ t.freeCount = s.freeCount ∧
      ∃ st d, t.responses = s.responses ++ [responseWord st d] := by
  obtain ⟨st, d, e⟩ | ⟨x, -, -, e⟩ | ⟨-, -, e⟩ | ⟨b, -, -, e⟩ | ⟨st, d, -, e⟩ := exec_cases i s <;>
    (rw [e] at h; cases h; exact ⟨rfl, rfl, rfl, rfl, _, _, rfl⟩)

/-- A step is one of three: nothing offered, a command word, a reset event. -/
theorem step_cases (s t : State) (h : step s = .next t) :
    (s.inputs = [] ∧ t = s) ∨
    (∃ w rest, s.inputs = .command w :: rest ∧ exec (decode w) (takeInput s) = .next t) ∨
    (∃ rest, s.inputs = .reset :: rest ∧ t = resetEvent (takeInput s)) := by
  unfold step at h
  split at h
  · exact .inl ⟨‹_›, by simpa using h.symm⟩
  · exact .inr (.inl ⟨_, _, ‹_›, h⟩)
  · exact .inr (.inr ⟨_, ‹_›, by simpa using h.symm⟩)

/-- What `withFetchWord` offers is the very next thing the block does. -/
theorem step_withFetchWord (s : State) (nbits w : Nat) :
    step (s.withFetchWord nbits w) = exec (decode (tableWord nbits w)) s := rfl

end Sys2Proof.Machine
end

