-- ==== Sys2Proof/Laws/PerInstr.lean ====
section
/-! SUPPORT. Facts about every command as data, one lemma per constructor. Family EncodedLegality:
the word of a well-formed command is an illegal word exactly when the command is `illegal`
(30_encoding.md R63, R64, R69). -/

namespace Sys2Proof.Laws.EncodedLegality

/-- The encoder gives an illegal word for `illegal` commands and for no other. -/
def Statement (i : Instr) : Prop :=
  i.wellFormed = true → (illegalWord (encode i) = true ↔ i.mnemonic = .ILLEGAL)

/-- A word whose header is a legal operation's is not illegal. -/
theorem of_header (i : Instr) (o : BitVec 3) (hm : i.mnemonic ≠ .ILLEGAL) (ho : o ≠ 0b111#3)
    (h1 : opField (encode i) = o) (h2 : rsvField (encode i) = 0#5) : Statement i := by
  intro _
  rw [illegalWord_iff, h1, h2]
  simp [hm, ho]

theorem nop : Statement .nop := fun _ => by decide

theorem encodeFrame (x : Body) : Statement (.encodeFrame x) :=
  of_header _ 0b001#3 (by simp [Instr.mnemonic]) (by decide)
    (by simp only [encode, opField_or, opField_bodyBits]; decide)
    (by simp only [encode, rsvField_or, rsvField_bodyBits]; decide)

theorem decodeFrame (f : Frame) : Statement (.decodeFrame f) :=
  of_header _ 0b010#3 (by simp [Instr.mnemonic]) (by decide)
    (by
      simp only [encode, opField_or, opField_bodyBits]
      rw [opField_shifted _ 48 (by decide), opField_shifted _ 0 (by decide)]
      decide)
    (by
      simp only [encode, rsvField_or, rsvField_bodyBits]
      rw [rsvField_shifted _ 48 (by decide), rsvField_shifted _ 0 (by decide)]
      decide)

theorem txStart (x : Body) : Statement (.txStart x) :=
  of_header _ 0b011#3 (by simp [Instr.mnemonic]) (by decide)
    (by simp only [encode, opField_or, opField_bodyBits]; decide)
    (by simp only [encode, rsvField_or, rsvField_bodyBits]; decide)

theorem txNext : Statement .txNext := fun _ => by decide

theorem rxByte (b : Byte) : Statement (.rxByte b) :=
  of_header _ 0b101#3 (by simp [Instr.mnemonic]) (by decide)
    (by simp only [encode, opField_or]; rw [opField_shifted _ 0 (by decide)]; decide)
    (by simp only [encode, rsvField_or]; rw [rsvField_shifted _ 0 (by decide)]; decide)

theorem rxClear : Statement .rxClear := fun _ => by decide

theorem illegal (w : CommandWord) : Statement (.illegal w) := fun h => ⟨fun _ => rfl, fun _ => h⟩

end Sys2Proof.Laws.EncodedLegality
end

