-- ==== Sys2Proof/Laws/Step.lean ====
section
/-! SUPPORT. Runs: the host's runner is the model's, and an invariant that every step keeps holds along
every run. -/

namespace Sys2Proof.Machine

theorem runSteps_zero (s : State) : runSteps 0 s = .next s := rfl

/-- A run that can take its first step goes on from there. -/
theorem runSteps_succ (n : Nat) (s t : State) (h : step s = .next t) :
    runSteps (n + 1) s = runSteps n t := by
  simp [runSteps, h]

/-- One step of the host's runner, when the machine's step goes on. -/
theorem core_run_succ (M : Host.Core) (n : Nat) (s t : M.State) (h : M.step s = .next t) :
    M.run (n + 1) s = M.run n t := by
  simp [Host.Core.run, h]

/-- Where the model's run goes on, the host's runner over the model's core goes to the same state. -/
theorem core_run_of_runSteps (n : Nat) :
    ∀ s t : State, runSteps n s = .next t → Sys2Proof.core.run n s = .next t := by
  induction n with
  | zero => exact fun _ _ h => h
  | succ n ih =>
    intro s t h
    cases hst : step s with
    | next u =>
      rw [runSteps_succ n s u hst] at h
      exact (core_run_succ Sys2Proof.core n s u hst).trans (ih u t h)
    | fault r => simp [runSteps, hst] at h
    | refused r => simp [runSteps, hst] at h

/-- The induction over runs, once: what every step keeps, every run keeps. -/
theorem runSteps_keeps (P : State → Prop) (hP : ∀ s t, P s → step s = .next t → P t) :
    ∀ (n : Nat) (s t : State), P s → runSteps n s = .next t → P t := by
  intro n
  induction n with
  | zero =>
    intro s t hs h
    cases h
    exact hs
  | succ n ih =>
    intro s t hs h
    cases hst : step s with
    | next u => exact ih u t (hP s u hs hst) (by rwa [runSteps_succ n s u hst] at h)
    | fault r => simp [runSteps, hst] at h
    | refused r => simp [runSteps, hst] at h

theorem runCommands_nil (s : State) : runCommands [] s = .next s := rfl

theorem runCommands_cons (i : Instr) (is : List Instr) (s t : State) (h : exec i s = .next t) :
    runCommands (i :: is) s = runCommands is t := by
  simp [runCommands, h]

end Sys2Proof.Machine
end

