-- ==== Sys2Proof/Tests/Slice0.lean ====
section
/-! SUPPORT. Tests and witnesses. Expected results come from spec/95_test_vectors.md (the vector is named)
or from the encodings of 30_encoding.md; a witness shows a state and operands that meet a statement's
hypotheses, each clause at a boundary of its range. -/

namespace Sys2Proof.Machine.Tests

/-- The next state, to compare it with. -/
def next? : Result → Option State
  | .next s => some s
  | .fault _ => none
  | .refused _ => none

/-- One step on a command word. -/
def stepOn (s : State) (w : Nat) : Option State := next? (step (s.withFetchWord 64 w))

/-- The response words after one step on a command word. -/
def answer (s : State) (w : Nat) : Option (List ResponseWord) := (stepOn s w).map (·.responses)

/-- Example 1's frame in flight at an index (41_serializer.md R100, V-T1). -/
def txAt (idx : BitVec 3) (acc : Byte) : State :=
  { State.reset with
    tx := { buf := #v[0xFF, 0x01, 0x00, 0x02, 0x20, 0x00], idx := idx, acc := acc, active := true } }

/-- Example 1's frame, received up to an index (42_deserializer.md R120, V-R1). -/
def rxAt (idx : BitVec 3) (acc : Byte) : State :=
  { State.reset with rx := { buf := #v[0xFF, 0x01, 0x00, 0x02, 0x20, 0x00], idx := idx, acc := acc } }

/-- The same state with `SYNC_CHECK` = true. -/
def checked (s : State) : State := { s with config := { s.config with syncCheck := true } }

/-- The same state with events offered. -/
def offering (s : State) (es : List HostEvent) : State := { s with inputs := es }

def body1 : Body := ⟨0x01, 0x00, 0x02, 0x20, 0x00⟩

def frame1 : Frame := ⟨0xFF, body1, 0x23⟩

def badFrame1 : Frame := ⟨0xFF, body1, 0x24⟩

def foreignFrame1 : Frame := ⟨0x00, body1, 0x23⟩

/-! ## WellFormed: the check refuses an `illegal` command whose word is legal (30_encoding.md R64) -/

theorem test_wellFormed_refuses_nop_word : (Instr.illegal 0x0000000000000000).wellFormed = false := by
  decide

theorem test_wellFormed_refuses_rxClear_word :
    (Instr.illegal 0xC0FFFFFFFFFFFFFF).wellFormed = false := by decide

theorem test_wellFormed_takes_both_kinds_of_illegal_word :
    (Instr.illegal 0xE000000000000000).wellFormed = true ∧
    (Instr.illegal 0x0100000000000000).wellFormed = true := by decide

/-! ## Decode: each word written out field by field, OP RSV B0 .. B6 (30_encoding.md R60, R62, R63) -/

theorem test_decode_nop_ignores_all_bytes :
    decode (0b000#3 ++ 0b00000#5 ++ 0x01#8 ++ 0x02#8 ++ 0x03#8 ++ 0x04#8 ++ 0x05#8 ++ 0x06#8 ++ 0x07#8)
      = .nop := by decide

theorem test_decode_encode :
    decode (0b001#3 ++ 0b00000#5 ++ 0xAA#8 ++ 0x12#8 ++ 0x34#8 ++ 0x56#8 ++ 0x78#8 ++ 0x9A#8 ++ 0xBB#8)
      = .encodeFrame ⟨0x12, 0x34, 0x56, 0x78, 0x9A⟩ := by decide

theorem test_decode_decode :
    decode (0b010#3 ++ 0b00000#5 ++ 0xAA#8 ++ 0x12#8 ++ 0x34#8 ++ 0x56#8 ++ 0x78#8 ++ 0x9A#8 ++ 0xBB#8)
      = .decodeFrame ⟨0xAA, ⟨0x12, 0x34, 0x56, 0x78, 0x9A⟩, 0xBB⟩ := by decide

theorem test_decode_txStart :
    decode (0b011#3 ++ 0b00000#5 ++ 0xAA#8 ++ 0x12#8 ++ 0x34#8 ++ 0x56#8 ++ 0x78#8 ++ 0x9A#8 ++ 0xBB#8)
      = .txStart ⟨0x12, 0x34, 0x56, 0x78, 0x9A⟩ := by decide

theorem test_decode_txNext :
    decode (0b100#3 ++ 0b00000#5 ++ 0xAA#8 ++ 0x12#8 ++ 0x34#8 ++ 0x56#8 ++ 0x78#8 ++ 0x9A#8 ++ 0xBB#8)
      = .txNext := by decide

theorem test_decode_rxByte :
    decode (0b101#3 ++ 0b00000#5 ++ 0xAA#8 ++ 0x12#8 ++ 0x34#8 ++ 0x56#8 ++ 0x78#8 ++ 0x9A#8 ++ 0xBB#8)
      = .rxByte 0xBB := by decide

theorem test_decode_rxClear :
    decode (0b110#3 ++ 0b00000#5 ++ 0xAA#8 ++ 0x12#8 ++ 0x34#8 ++ 0x56#8 ++ 0x78#8 ++ 0x9A#8 ++ 0xBB#8)
      = .rxClear := by decide

theorem test_decode_illegal_operation :
    decode (0b111#3 ++ 0b00000#5 ++ 0x00#56) = .illegal 0xE000000000000000 := by decide

theorem test_decode_illegal_reserved_bits :
    decode (0b100#3 ++ 0b00001#5 ++ 0x00#56) = .illegal 0x8100000000000000 ∧
    decode (0b010#3 ++ 0b10000#5 ++ 0x00#56) = .illegal 0x5000000000000000 := by decide

/-- R70's formulas on V-D1 and V-R1 words. -/
theorem test_encode_decodeFrame : encode (.decodeFrame frame1) = 0x40FF010002200023 := by decide

theorem test_encode_rxByte : encode (.rxByte 0x23) = 0xA000000000000023 := by decide

/-! ## Each operation, one step -/

/-- V-E9: mixed bytes, sum 430. -/
theorem test_encode_mixed : answer State.reset 0x2000123456789A00 = some [0x00FF123456789AAE] := by
  decide

/-- V-E11: variant P, only byte 0 differs. -/
theorem test_encode_variant_p :
    answer (State.construct { variant := .p, syncCheck := false }) 0x2000010002200000
      = some [0x00A0010002200023] := by decide

/-- V-D6: sync and checksum both wrong, SYNC_CHECK = true: the checksum wins; V-D5: SYNC_MISMATCH. -/
theorem test_decode_checked :
    answer (checked State.reset) 0x4000010002200024 = some [0x2000000000000000] ∧
    answer (checked State.reset) 0x4000010002200023 = some [0x3000000000000000] := by decide

/-- V-D4: a foreign sync byte, not checked, comes back in D0. -/
theorem test_decode_unchecked : answer State.reset 0x4000010002200023 = some [0x0000010002200023] := by
  decide

/-- V-T1 step 1. -/
theorem test_txStart_loads :
    stepOn State.reset 0x6000010002200000 = some { txAt 0 0 with responses := [0] } := by decide

/-- V-T3 step 4: TX_BUSY, the frame in flight kept. -/
theorem test_txStart_busy :
    stepOn (txAt 1 0) 0x6000090909090900
      = some { txAt 1 0 with responses := [0x4000000000000000] } := by decide

/-- V-T1 step 6: byte 4, accumulated. -/
theorem test_txNext_body :
    stepOn (txAt 4 0x03) 0x8000000000000000
      = some { txAt 5 0x23 with responses := [0x0000000000000020] } := by decide

/-- V-T1 steps 8 and 9: the checksum byte, then TX_IDLE. -/
theorem test_txNext_checksum_then_idle :
    answer (txAt 6 0x23) 0x8000000000000000 = some [0x0000000000000023] ∧
    ((stepOn (txAt 6 0x23) 0x8000000000000000).map (·.tx.active)) = some false ∧
    answer State.reset 0x8000000000000000 = some [0x5000000000000000] := by decide

/-- V-R1 step 5, and V-R3's wrap: 0xFF accumulated on 0xFE gives 0xFD. -/
theorem test_rxByte_accumulates :
    (stepOn (rxAt 4 0x03) 0xA000000000000020).map (fun s => (s.rx.idx, s.rx.acc, s.responses))
      = some (5, 0x23, [0x1000000000000000]) ∧
    (stepOn (rxAt 3 0xFE) 0xA0000000000000FF).map (·.rx.acc) = some 0xFD := by decide

/-- V-R1 step 7, V-R2 step 7 and V-R5 step 7's verdicts at the checksum byte. -/
theorem test_rxByte_completes :
    answer (rxAt 6 0x23) 0xA000000000000023 = some [0x00FF010002200023] ∧
    (stepOn (rxAt 6 0x23) 0xA000000000000024).map (fun s => (s.rx.idx, s.rx.acc, s.responses))
      = some (0, 0, [0x2000000000000000]) ∧
    answer (checked { rxAt 6 0x23 with sync := 0xA0 }) 0xA000000000000023
      = some [0x3000000000000000] := by decide

/-- V-R4 step 3: the partial frame is dropped, the buffer keeps its bytes. -/
theorem test_rxClear :
    stepOn (rxAt 2 0x01) 0xC000000000000000 = some { rxAt 0 0 with responses := [0] } := by decide

/-- V-C1 step 9. -/
theorem test_nop : stepOn (txAt 2 0x01) 0x0001020304050607
    = some { txAt 2 0x01 with responses := [0] } := by decide

/-- V-C1 steps 3 and 6: neither moves the channel. -/
theorem test_illegal :
    answer State.reset 0xFFFFFFFFFFFFFFFF = some [0x6000000000000000] ∧
    stepOn (txAt 1 0) 0x8100000000000000
      = some { txAt 1 0 with responses := [0x6000000000000000] } := by decide

/-- W1: PAN_RIGHT 0x01, 0x20 is Example 1's ENCODE. -/
theorem test_panRight : encode (expandPanRight 0x01 0x20) = 0x2000010002200000 := by decide

/-- R72, R45: a position goes high byte in data1. -/
theorem test_position :
    expandEncodeAct [(.positionSetter 0, ⟨0x00, 0x4B, .position⟩)] (.positionSetter 0) 0x01
        (.position 0x1234)
      = some (.encodeFrame ⟨0x01, 0x00, 0x4B, 0x12, 0x34⟩) := by decide

/-- R69: a line with a comment, and its listing (in the form log 8 chooses); W1's word. -/
theorem test_assemble_line :
    listingLine "TX_START 1, 0x00,2, 0x20, 0 ; pan".toList
      = some "6000010002200000 TX_START 1, 0x00,2, 0x20, 0 ; pan".toList := by decide

/-- R69, R49: an operand above 255 is refused, as is an operand too many. -/
theorem test_assemble_refuses :
    assembleLine "RX_BYTE 256".toList = none ∧ assembleLine "TX_NEXT 0".toList = none ∧
    assembleLine "RX_BYTE 0xFF".toList = some (.rxByte 0xFF) := by decide

/-! ## States that meet the invariant (10_state.md R26) -/

theorem stateInv_reset : StateInv State.reset := by constructor <;> decide

theorem stateInv_txAt_0 : StateInv (txAt 0 0) := by constructor <;> decide

theorem stateInv_txAt_5 : StateInv (txAt 5 0x23) := by constructor <;> decide

theorem stateInv_txAt_6 : StateInv (txAt 6 0x23) := by constructor <;> decide

theorem stateInv_rxAt_5 : StateInv (rxAt 5 0x23) := by constructor <;> decide

theorem stateInv_rxAt_6 : StateInv (rxAt 6 0x23) := by constructor <;> decide

/-- The invariant is no empty check: it refuses an index 7 and a wrong accumulator. -/
theorem test_stateInv_refuses :
    ¬ StateInv (txAt 7 0x23) ∧ ¬ StateInv (rxAt 7 0x23) ∧ ¬ StateInv (txAt 5 0x24) :=
  ⟨fun h => absurd (h.txIdx rfl) (by decide), fun h => absurd h.rxIdx (by decide),
    fun h => absurd (h.txAcc rfl) (by decide)⟩

/-! ## Witnesses: hypotheses that can be met, one for each statement that has any -/

theorem witness_DecodeOfEncodeIsTheCommand :
    (Instr.illegal 0xFF00000000000000).wellFormed = true ∧
    (Instr.encodeFrame ⟨0xFF, 0xFF, 0xFF, 0xFF, 0xFF⟩).wellFormed = true := by decide

theorem witness_IgnoredBytesHaveNoEffect :
    (0x20AA0100022000BB : CommandWord) &&& (decode 0x20AA0100022000BB).usedBits
      = 0x2000010002200000 &&& (decode 0x20AA0100022000BB).usedBits := by decide

theorem witness_DecodingTestsReservedThenOperation :
    (0x8100000000000000 : CommandWord).extractLsb' 56 5 ≠ 0#5 ∧
    (0x00FFFFFFFFFFFFFF : CommandWord).extractLsb' 56 5 = 0#5 ∧
    (0x00FFFFFFFFFFFFFF : CommandWord).extractLsb' 61 3 = 0b000#3 ∧
    (0x2000000000000000 : CommandWord).extractLsb' 61 3 = 0b001#3 ∧
    (0x4000000000000000 : CommandWord).extractLsb' 61 3 = 0b010#3 ∧
    (0x6000000000000000 : CommandWord).extractLsb' 61 3 = 0b011#3 ∧
    (0x8000000000000000 : CommandWord).extractLsb' 61 3 = 0b100#3 ∧
    (0xA000000000000000 : CommandWord).extractLsb' 61 3 = 0b101#3 ∧
    (0xC000000000000000 : CommandWord).extractLsb' 61 3 = 0b110#3 ∧
    (0xE000000000000000 : CommandWord).extractLsb' 61 3 = 0b111#3 ∧
    (0xE000000000000000 : CommandWord).extractLsb' 56 5 = 0#5 := by decide

theorem witness_DecodingFollowsTheOpcodeTable :
    (∃ r ∈ opcodeRows, (0xA0000000000000FF : CommandWord) &&& r.mask = r.bits) ∧
    (∀ r ∈ opcodeRows, (0x8100000000000000 : CommandWord) &&& r.mask ≠ r.bits) := by decide

theorem witness_StepRunsTheDecodedCommand :
    (offering State.reset [.command 0x8000000000000000, .reset]).inputs
      = .command 0x8000000000000000 :: [.reset] := by decide

theorem witness_OneResponsePerCommandWord :
    (next? (step (offering State.reset [.command 0]))).isSome = true ∧
    step (offering State.reset [.reset]) = .next (resetEvent State.reset) ∧
    step State.reset = .next State.reset ∧ State.reset.inputs = [] :=
  ⟨by decide, rfl, rfl, rfl⟩

theorem witness_AnswersAreWellShaped :
    exec .txNext State.reset = .next { State.reset with responses := [0x5000000000000000] } ∧
    statusField 0x5000000000000000 ≠ 0#4 := ⟨rfl, by decide⟩

theorem witness_ResetEventEmptiesBothChannels :
    (offering (txAt 3 0x01) [.reset]).inputs = .reset :: [] ∧
    SyncFixed (offering (txAt 3 0x01) [.reset]) := ⟨rfl, rfl⟩

theorem witness_ConstructionTakesOnlyTheTwoSyncBytes :
    ((0xFF : Byte) = 0xFF ∨ (0xFF : Byte) = 0xA0) ∧ ((0xA0 : Byte) = 0xFF ∨ (0xA0 : Byte) = 0xA0) ∧
    (0xFE : Byte) ≠ 0xFF ∧ (0xFE : Byte) ≠ 0xA0 := by decide

theorem witness_SyncIsReadOnly :
    step (offering State.reset [.reset]) = .next (resetEvent State.reset) := rfl

theorem witness_EveryStepKeepsTheInvariant :
    StateInv State.reset ∧ step State.reset = .next State.reset ∧
    step (offering (txAt 7 0x23) [.reset]) = .next (resetEvent (offering (txAt 7 0x23) [])) :=
  ⟨stateInv_reset, rfl, rfl⟩

theorem witness_ChecksumAtTheBoundarySums :
    (0x00 : Byte).toNat + (0x00 : Byte).toNat + (0x00 : Byte).toNat + (0x00 : Byte).toNat
      + (0x00 : Byte).toNat = 0 ∧
    (0xFF : Byte).toNat + (0x00 : Byte).toNat + (0x00 : Byte).toNat + (0x00 : Byte).toNat
      + (0x00 : Byte).toNat = 255 ∧
    (0xFF : Byte).toNat + (0x01 : Byte).toNat + (0x00 : Byte).toNat + (0x00 : Byte).toNat
      + (0x00 : Byte).toNat = 256 ∧
    (0xFF : Byte).toNat + (0xFF : Byte).toNat + (0x01 : Byte).toNat + (0x00 : Byte).toNat
      + (0x00 : Byte).toNat = 511 ∧
    (0xFF : Byte).toNat + (0xFF : Byte).toNat + (0x02 : Byte).toNat + (0x00 : Byte).toNat
      + (0x00 : Byte).toNat = 512 ∧
    (0xFF : Byte).toNat + (0xFF : Byte).toNat + (0xFF : Byte).toNat + (0xFF : Byte).toNat
      + (0xFF : Byte).toNat = 1275 := by decide

theorem witness_DecodeCompletes :
    checksum frame1.body = frame1.checksum ∧ State.reset.config.syncCheck = false ∧
    (checked State.reset).config.syncCheck = true ∧ frame1.sync = (checked State.reset).sync := by
  decide

theorem witness_DecodeAnswersItsErrors :
    checksum badFrame1.body ≠ badFrame1.checksum ∧
    checksum foreignFrame1.body = foreignFrame1.checksum ∧
    (checked State.reset).config.syncCheck = true ∧ foreignFrame1.sync ≠ (checked State.reset).sync := by
  decide

theorem witness_TxStartCompletes : State.reset.tx.active = false := by decide

theorem witness_TxStartWhileBusyIsRefused : (txAt 6 0x23).tx.active = true := by decide

theorem witness_TxNextCompletes :
    (txAt 0 0).tx.active = true ∧ (txAt 0 0).tx.idx = 0 ∧
    (txAt 1 0).tx.active = true ∧ (txAt 1 0).tx.idx.toNat = (1 : Fin 6).val ∧
    (txAt 5 0x23).tx.active = true ∧ (txAt 5 0x23).tx.idx.toNat = (5 : Fin 6).val ∧
    (txAt 6 0x23).tx.active = true ∧ (txAt 6 0x23).tx.idx = 6 := by decide

theorem witness_TxNextWhileIdleIsRefused : State.reset.tx.active = false := by decide

theorem witness_RxByteCompletes :
    (rxAt 0 0).rx.idx = 0 ∧ (rxAt 1 0).rx.idx.toNat = (1 : Fin 6).val ∧
    (rxAt 5 0x23).rx.idx.toNat = (5 : Fin 6).val ∧
    (rxAt 6 0x23).rx.idx = 6 ∧ (rxAt 6 0x23).rx.acc = 0x23 ∧
    (rxAt 6 0x23).config.syncCheck = false ∧
    (checked (rxAt 6 0x23)).rx.buf[0] = (checked (rxAt 6 0x23)).sync := by decide

theorem witness_RxByteAnswersItsErrors :
    (rxAt 6 0x23).rx.idx = 6 ∧ (rxAt 6 0x23).rx.acc ≠ 0x24 ∧
    (checked { rxAt 6 0x23 with sync := 0xA0 }).rx.acc = 0x23 ∧
    (checked { rxAt 6 0x23 with sync := 0xA0 }).config.syncCheck = true ∧
    (checked { rxAt 6 0x23 with sync := 0xA0 }).rx.buf[0]
      ≠ (checked { rxAt 6 0x23 with sync := 0xA0 }).sync := by decide

theorem witness_EncodeWordAnswersTheFrame :
    (offering State.reset [.command 0x20AA0100022000BB]).inputs = .command 0x20AA0100022000BB :: [] ∧
    (0x20AA0100022000BB : CommandWord).extractLsb' 61 3 = 0b001#3 ∧
    (0x20AA0100022000BB : CommandWord).extractLsb' 56 5 = 0#5 := by decide

/-- Its clauses: a bad checksum; a good one with a foreign sync that is checked; a good frame. -/
theorem witness_DecodeWordChecksTheFrame :
    (0x4000010002200023 : CommandWord).extractLsb' 61 3 = 0b010#3 ∧
    (0x4000010002200023 : CommandWord).extractLsb' 56 5 = 0#5 ∧
    (35 : Nat) ≠ ((0x40FF010002200024 : CommandWord).extractLsb' 0 8).toNat ∧
    (35 : Nat) = ((0x4000010002200023 : CommandWord).extractLsb' 0 8).toNat ∧
    (checked State.reset).config.syncCheck = true ∧
    (0x4000010002200023 : CommandWord).extractLsb' 48 8 ≠ (checked State.reset).sync ∧
    (0x40FF010002200023 : CommandWord).extractLsb' 48 8 = (checked State.reset).sync := by decide

theorem witness_TxStartWordLoadsTheBody :
    (offering (txAt 0 0) [.command 0x6000010002200000]).inputs = .command 0x6000010002200000 :: [] ∧
    (0x6000010002200000 : CommandWord).extractLsb' 61 3 = 0b011#3 ∧
    (0x6000010002200000 : CommandWord).extractLsb' 56 5 = 0#5 ∧
    (offering (txAt 0 0) []).tx.active = true ∧ State.reset.tx.active = false := by decide

theorem witness_TxNextWordEmitsTheNextByte :
    (offering (txAt 6 0x23) [.command 0x8000000000000000]).inputs = .command 0x8000000000000000 :: [] ∧
    (0x8000000000000000 : CommandWord).extractLsb' 61 3 = 0b100#3 ∧
    (0x8000000000000000 : CommandWord).extractLsb' 56 5 = 0#5 ∧
    (txAt 0 0).tx.idx.toNat = (0 : Fin 6).val ∧ (txAt 5 0x23).tx.idx.toNat = (5 : Fin 6).val ∧
    (txAt 6 0x23).tx.idx.toNat = 6 ∧ State.reset.tx.active = false := by decide

theorem witness_RxByteWordTakesTheByte :
    (offering (rxAt 6 0x23) [.command 0xA000000000000023]).inputs = .command 0xA000000000000023 :: [] ∧
    (0xA000000000000023 : CommandWord).extractLsb' 61 3 = 0b101#3 ∧
    (0xA000000000000023 : CommandWord).extractLsb' 56 5 = 0#5 ∧
    (rxAt 0 0).rx.idx.toNat = (0 : Fin 6).val ∧ (rxAt 5 0x23).rx.idx.toNat = (5 : Fin 6).val ∧
    (rxAt 6 0x23).rx.idx.toNat = 6 ∧
    (rxAt 6 0x23).rx.acc = (0xA000000000000023 : CommandWord).extractLsb' 0 8 ∧
    (rxAt 6 0x23).rx.acc ≠ (0xA000000000000024 : CommandWord).extractLsb' 0 8 ∧
    (checked { rxAt 6 0x23 with sync := 0xA0 }).rx.buf[0]
      ≠ (checked { rxAt 6 0x23 with sync := 0xA0 }).sync := by decide

theorem witness_ClearNopAndIllegalWords :
    (offering State.reset [.command 0xC000000000000000]).inputs = .command 0xC000000000000000 :: [] ∧
    (0xC000000000000000 : CommandWord).extractLsb' 61 3 = 0b110#3 ∧
    (0xC000000000000000 : CommandWord).extractLsb' 56 5 = 0#5 ∧
    (0x00FFFFFFFFFFFFFF : CommandWord).extractLsb' 61 3 = 0b000#3 ∧
    (0x00FFFFFFFFFFFFFF : CommandWord).extractLsb' 56 5 = 0#5 ∧
    (0x8100000000000000 : CommandWord).extractLsb' 56 5 ≠ 0#5 ∧
    (0xE000000000000000 : CommandWord).extractLsb' 61 3 = 0b111#3 := by decide

theorem witness_ExactlyOneChecksumBytePasses :
    State.reset.config.syncCheck = false ∧ (checked State.reset).config.syncCheck = true := by decide

/-- Its clauses: the checksum byte changed; the sync byte changed, unchecked and checked; two body
bytes. -/
theorem witness_WhatTheChecksumDetects :
    AnswersCode (.decodeFrame frame1) State.reset 0#4 ∧
    AnswersCode (.decodeFrame frame1) (checked State.reset) 0#4 ∧
    (6 : Fin 7) ≠ 0 ∧ (0x24 : Byte) ≠ frameByte frame1 6 ∧ (0x00 : Byte) ≠ frame1.sync ∧
    (1 : Fin 7) ≠ 5 ∧ (1 : Fin 7) ≠ 6 ∧ (5 : Fin 7) ≠ 6 :=
  ⟨⟨_, _, rfl, rfl, by decide⟩, ⟨_, _, rfl, rfl, by decide⟩, by decide, by decide, by decide,
    by decide, by decide, by decide⟩

theorem witness_WhichCommandsAreIdempotent :
    writesNoState (.decodeFrame badFrame1) = true ∧
    exec .rxClear (rxAt 2 0x01) = .next { rxAt 0 0 with responses := [0] } ∧
    exec (.txStart body1) State.reset = .next { txAt 0 0 with responses := [0] } :=
  ⟨rfl, rfl, rfl⟩

theorem witness_EmissionSchedule :
    StateInv (txAt 0 0) ∧ (txAt 0 0).tx.active = true ∧
    (txAt 0 0).tx.idx.toNat = (0 : Fin 6).val ∧
    StateInv (txAt 5 0x23) ∧ (txAt 5 0x23).tx.idx.toNat = (5 : Fin 6).val ∧
    StateInv (txAt 6 0x23) ∧ (txAt 6 0x23).tx.idx.toNat = 6 :=
  ⟨stateInv_txAt_0, rfl, rfl, stateInv_txAt_5, rfl, stateInv_txAt_6, rfl⟩

theorem witness_AcceptanceSchedule :
    StateInv State.reset ∧ State.reset.rx.idx.toNat = (0 : Fin 6).val ∧
    StateInv (rxAt 5 0x23) ∧ (rxAt 5 0x23).rx.idx.toNat = (5 : Fin 6).val ∧
    StateInv (rxAt 6 0x23) ∧ (rxAt 6 0x23).rx.idx.toNat = 6 :=
  ⟨stateInv_reset, rfl, stateInv_rxAt_5, rfl, stateInv_rxAt_6, rfl⟩

/-- Six TX_NEXT among a busy TX_START, an RX_BYTE, an ENCODE and an illegal word. -/
theorem witness_SerializerEqualsEncode :
    State.reset.tx.active = false ∧
    ([.txNext, .txStart body1, .txNext, .rxByte 7, .txNext, .encodeFrame body1, .txNext,
      .illegal 0xE000000000000000, .txNext, .nop, .txNext] : List Instr).countP isTxNext = 6 := by
  decide

/-- Six RX_BYTE among TX commands, a DECODE and a NOP. -/
theorem witness_DeserializerEqualsDecode :
    StateInv State.reset ∧ State.reset.rx.idx = 0 ∧
    ([.rxByte 0xFF, .txStart body1, .rxByte 0x01, .txNext, .rxByte 0x00, .decodeFrame badFrame1,
      .rxByte 0x02, .nop, .rxByte 0x20, .rxByte 0x00] : List Instr).any isRxClear = false ∧
    ([.rxByte 0xFF, .txStart body1, .rxByte 0x01, .txNext, .rxByte 0x00, .decodeFrame badFrame1,
      .rxByte 0x02, .nop, .rxByte 0x20, .rxByte 0x00] : List Instr).filterMap rxOperand
      = [frame1.sync, frame1.body.unitAddress, frame1.body.command1, frame1.body.command2,
          frame1.body.data1, frame1.body.data2] :=
  ⟨stateInv_reset, rfl, by decide, by decide⟩

theorem witness_OnlyResetAbortsAFrame :
    StateInv (txAt 6 0x23) ∧ (txAt 6 0x23).tx.active = true ∧
    step (txAt 6 0x23) = .next (txAt 6 0x23) := ⟨stateInv_txAt_6, rfl, rfl⟩

theorem witness_AFrameErrorBlocksNothing :
    (rxAt 6 0x23).rx.idx = 6 ∧
    exec (.rxByte 0x24) (rxAt 6 0x23)
      = .next { rxAt 0 0 with responses := [responseWord .checksumMismatch 0] } ∧
    exec (.rxByte 0x23) (checked { rxAt 6 0x23 with sync := 0xA0 })
      = .next { checked { rxAt 0 0 with sync := 0xA0 } with
          responses := [responseWord .syncMismatch 0] } ∧
    writesNoState (.encodeFrame body1) = true ∧ writesNoState (.decodeFrame frame1) = true :=
  ⟨rfl, rfl, rfl, rfl, rfl⟩

theorem witness_ChannelsAreIndependent :
    exec (.txStart body1) State.reset = .next { txAt 0 0 with responses := [0] } ∧
    exec .rxClear (rxAt 2 0x01) = .next { rxAt 0 0 with responses := [0] } ∧
    writesNoState (.encodeFrame body1) = true := ⟨rfl, rfl, rfl⟩

/-- Reset states that differ in both buffers, in every byte. -/
theorem witness_UnwrittenBufferBytesAreUnobservable :
    SameObservable State.reset
      { State.reset with
        tx := { State.reset.tx with buf := #v[1, 2, 3, 4, 5, 6] }
        rx := { State.reset.rx with buf := #v[7, 8, 9, 10, 11, 12] } } := by
  constructor <;> decide

theorem witness_WhichCommandRaisesEachStatus :
    StateInv (rxAt 6 0x23) ∧ StateInv State.reset ∧
    exec .nop State.reset = .next { State.reset with responses := [0] } :=
  ⟨stateInv_rxAt_6, stateInv_reset, rfl⟩

theorem witness_ErrorsArePrecise :
    StateInv (rxAt 6 0x23) ∧
    exec (.rxByte 0x24) (rxAt 6 0x23)
      = .next { rxAt 0 0 with responses := (rxAt 6 0x23).responses ++ [0x2000000000000000] } :=
  ⟨stateInv_rxAt_6, rfl⟩

theorem witness_ErrorPriority :
    (next? (step (offering State.reset [.command 0x8100000000000000]))).isSome = true ∧
    (0x8100000000000000 : CommandWord).extractLsb' 56 5 ≠ 0#5 ∧
    checksum (⟨0x00, body1, 0x24⟩ : Frame).body ≠ (⟨0x00, body1, 0x24⟩ : Frame).checksum ∧
    (0x00 : Byte) ≠ (checked State.reset).sync ∧ (checked State.reset).config.syncCheck = true ∧
    (checked { rxAt 6 0x23 with sync := 0xA0 }).rx.idx = 6 ∧
    (checked { rxAt 6 0x23 with sync := 0xA0 }).rx.acc ≠ 0x24 ∧
    (checked { rxAt 6 0x23 with sync := 0xA0 }).rx.buf[0]
      ≠ (checked { rxAt 6 0x23 with sync := 0xA0 }).sync ∧
    (txAt 0 0).tx.active = true ∧ State.reset.tx.active = false := by decide

/-- A body byte 0x00 at index 5. -/
theorem witness_OnlyStatusTellsIdleFromByteZero :
    State.reset.tx.active = false ∧ (txAt 5 0x23).tx.active = true ∧
    (∀ k : Fin 6, (txAt 5 0x23).tx.idx.toNat = k.val → (txAt 5 0x23).tx.buf[k] = 0) ∧
    ((txAt 5 0x23).tx.idx.toNat = 6 → (txAt 5 0x23).tx.acc = 0) ∧
    (txAt 5 0x23).tx.idx.toNat ≤ 6 ∧
    exec .txNext State.reset = .next { State.reset with responses := [0x5000000000000000] } ∧
    exec .txNext (txAt 5 0x23) = .next { txAt 6 0x23 with responses := [0] } :=
  ⟨rfl, rfl, by decide, by decide, by decide, rfl, rfl⟩

/-- The checksum 0x00 at index 6: body sum 256, in a state that meets the invariant. -/
theorem witness_OnlyStatusTellsIdleFromByteZero_checksum :
    let t : State := { State.reset with
      tx := { buf := #v[0xFF, 0xFF, 0x01, 0x00, 0x00, 0x00], idx := 6, acc := 0, active := true } }
    t.tx.active = true ∧ t.tx.acc = bodySum t.tx.buf 6 ∧
    (∀ k : Fin 6, t.tx.idx.toNat = k.val → t.tx.buf[k] = 0) ∧
    (t.tx.idx.toNat = 6 → t.tx.acc = 0) ∧ t.tx.idx.toNat ≤ 6 ∧
    next? (exec .txNext t) = some { t with
      tx := { t.tx with idx := 0, acc := 0, active := false }, responses := [0] } := by decide

/-- A refused operand, a refused count, and the largest operand taken, by operands and by text. -/
theorem witness_AssemblerRefusesOperandsAbove255 :
    (∃ n ∈ [0, 256], 255 < n) ∧ [0, 255].length ≠ AsmOp.rxByte.operandCount ∧
    assemble .rxByte [255] = some (.rxByte 0xFF) ∧ 255 ≤ 255 ∧
    assembleLine "RX_BYTE 255".toList = some (.rxByte 0xFF) := by decide

/-- The largest and the smallest operands, by R70's formulas: the words of R80's and R81's forms. -/
theorem witness_AssemblyFollowsTheEncodingFormulas :
    (assemble .encode [255, 0, 2, 32, 255]).map encode = some 0x2000FF000220FF00 ∧
    (assemble .decode [255, 1, 0, 2, 32, 0, 35]).map encode = some 0x40FF010002200023 ∧
    (assemble .rxByte [255]).map encode = some 0xA0000000000000FF ∧ 255 ≤ 255 ∧ 0 ≤ 255 := by decide

/-- One for each shape. -/
theorem witness_PseudoInstructionsExpand :
    lookupAction [(.panRight, ⟨0x00, 0x02, .liveD1 0x00⟩)] .panRight
      = some ⟨0x00, 0x02, .liveD1 0x00⟩ ∧
    (ActionShape.liveD1 0x00 = .liveD1 0x00 ∧ ActionOperand.byte 0x20 = .byte 0x20) ∧
    lookupAction [(.tiltStop, ⟨0x00, 0x00, .fixed 0x00 0x00⟩)] .tiltStop
      = some ⟨0x00, 0x00, .fixed 0x00 0x00⟩ ∧
    lookupAction [(.tiltUp, ⟨0x00, 0x08, .liveD2 0x00⟩)] .tiltUp = some ⟨0x00, 0x08, .liveD2 0x00⟩ ∧
    lookupAction [(.positionSetter 0, ⟨0x00, 0x4B, .position⟩)] (.positionSetter 0)
      = some ⟨0x00, 0x4B, .position⟩ ∧
    ActionOperand.position (0x12#8 ++ 0x34#8) = .position 0x1234 := by decide

end Sys2Proof.Machine.Tests
end

namespace Sys2Proof.Machine

/-! ## Construction (00_scope.md R9, R10) -/

/-- This hardware is of variant D. -/
theorem pdfc1_syncByte : Config.pdfc1.syncByte = 0xFF := rfl

/-- Construction from a variant's sync byte gives that variant. -/
theorem config_construct_variant (v : Variant) (chk : Bool) :
    Config.construct v.syncByte chk = some { variant := v, syncCheck := chk } := by
  cases v <;> rfl

/-- A byte that is no variant's sync byte is refused. -/
theorem config_construct_eq_none {b : Byte} (hd : b ≠ 0xFF) (hp : b ≠ 0xA0) (chk : Bool) :
    Config.construct b chk = none := by
  simp only [Config.construct, if_neg hd, if_neg hp]

/-! ## The verdict on a frame, one equation per outcome (40_frame_ops.md R81) -/

theorem answerFrame_of_checksum_ne {acc : Byte} {f : Frame} (hc : acc ≠ f.checksum) (s : State) :
    answerFrame acc f s = raise .checksumMismatch s := by
  simp only [answerFrame, if_pos hc]

theorem answerFrame_of_sync_ne {acc : Byte} {f : Frame} {s : State} (hc : acc = f.checksum)
    (hchk : s.config.syncCheck = true) (hs : f.sync ≠ s.sync) :
    answerFrame acc f s = raise .syncMismatch s := by
  simp [answerFrame, hc, hchk, hs]

theorem answerFrame_of_good {acc : Byte} {f : Frame} {s : State} (hc : acc = f.checksum)
    (hs : s.config.syncCheck = false ∨ f.sync = s.sync) :
    answerFrame acc f s = respond .ok (frameData f) s := by
  have hpass : ¬ (s.config.syncCheck = true ∧ f.sync ≠ s.sync) := by
    rintro ⟨hchk, hne⟩
    rcases hs with hoff | heq
    · simp [hoff] at hchk
    · exact hne heq
  simp only [answerFrame, hc, ne_eq, not_true_eq_false, if_false, if_neg hpass]

/-! ## The channels' moves, by index (41_serializer.md R101, 42_deserializer.md R120) -/

/-- An index that reads `k` moves on to `k + 1`. -/
theorem idx_succ_eq_ofNat {i : BitVec 3} {k : Nat} (h : i.toNat = k) :
    i + 1 = BitVec.ofNat 3 (k + 1) := by
  subst h
  simp [BitVec.ofNat_add]

theorem txByte_at (c : TxChannel) (k : Fin 6) (h : c.idx.toNat = k.val) : txByte c = c.buf[k] := by
  rw [txByte_of_le c (by omega)]
  simp [h]

/-- The sync byte is emitted and not accumulated. -/
theorem txAdvance_at_zero (c : TxChannel) (h : c.idx = 0) : txAdvance c = { c with idx := 1 } := by
  rw [txAdvance_of_le c (by simp [h])]
  simp [h]

/-- A body byte is emitted and accumulated. -/
theorem txAdvance_at_body (c : TxChannel) (k : Fin 6) (hk : 1 ≤ k.val) (h : c.idx.toNat = k.val) :
    txAdvance c =
      { c with
        idx := BitVec.ofNat 3 (k.val + 1)
        acc := BitVec.ofNat 8 (c.acc.toNat + c.buf[k].toNat) } := by
  rw [txAdvance_of_le c (by omega), if_pos (by omega), txByte_at c k h, idx_succ_eq_ofNat h,
    accumulate]

/-- The sync byte is stored and not accumulated. -/
theorem rxStore_at_zero (c : RxChannel) (b : Byte) (h : c.idx = 0) :
    rxStore c b = { c with buf := c.buf.set 0 b, idx := 1 } := by
  rw [rxStore_of_le c b (by simp [h])]
  simp [h]

/-- A body byte is stored and accumulated. -/
theorem rxStore_at_body (c : RxChannel) (b : Byte) (k : Fin 6) (hk : 1 ≤ k.val)
    (h : c.idx.toNat = k.val) :
    rxStore c b =
      { buf := c.buf.set k.val b
        idx := BitVec.ofNat 3 (k.val + 1)
        acc := BitVec.ofNat 8 (c.acc.toNat + b.toNat) } := by
  rw [rxStore_of_le c b (by omega), if_pos (by omega), idx_succ_eq_ofNat h, accumulate]
  simp only [h]

/-! ## What each command answers, one equation per outcome -/

theorem exec_nop (s : State) : exec .nop s = .next (respond .ok 0 s) := rfl

theorem exec_illegal (w : CommandWord) (s : State) :
    exec (.illegal w) s = .next (raise .illegalOp s) := rfl

theorem exec_encodeFrame (x : Body) (s : State) :
    exec (.encodeFrame x) s = .next (respond .ok (frameData (encodedFrame s.sync x)) s) := rfl

theorem exec_decodeFrame (f : Frame) (s : State) :
    exec (.decodeFrame f) s = .next (answerFrame (checksum f.body) f s) := rfl

theorem exec_rxClear (s : State) :
    exec .rxClear s = .next (respond .ok 0 { s with rx := rxRestart s.rx }) := rfl

theorem exec_txStart_idle (x : Body) {s : State} (h : s.tx.active = false) :
    exec (.txStart x) s = .next (respond .ok 0 { s with tx := txLoad s.sync x }) := by
  simp [exec, execTxStart, h]

theorem exec_txStart_busy (x : Body) {s : State} (h : s.tx.active = true) :
    exec (.txStart x) s = .next (raise .txBusy s) := by
  simp [exec, execTxStart, h]

theorem exec_txNext_idle {s : State} (h : s.tx.active = false) :
    exec .txNext s = .next (raise .txIdle s) := by
  simp [exec, execTxNext, h]

/-- With a frame in flight, TX_NEXT answers the channel's byte `b` and leaves the channel `c`. -/
theorem exec_txNext_active {s : State} {b : Byte} {c : TxChannel} (h : s.tx.active = true)
    (hb : txByte s.tx = b) (hc : txAdvance s.tx = c) :
    exec .txNext s = .next (respond .ok (byteData b) { s with tx := c }) := by
  simp [exec, execTxNext, h, hb, hc]

/-- Before the checksum byte, RX_BYTE stores its byte, which leaves the channel `c`. -/
theorem exec_rxByte_pending {b : Byte} {s : State} {c : RxChannel} (h : s.rx.idx.toNat ≤ 5)
    (hc : rxStore s.rx b = c) :
    exec (.rxByte b) s = .next (respond .rxPending 0 { s with rx := c }) := by
  simp [exec, execRxByte, h, hc]

/-- At the checksum byte, RX_BYTE empties the channel and answers the verdict on the frame. -/
theorem exec_rxByte_at_six {b : Byte} {s t : State} (h : s.rx.idx = 6)
    (ht : answerFrame s.rx.acc (frameOf s.rx.buf b) { s with rx := rxRestart s.rx } = t) :
    exec (.rxByte b) s = .next t := by
  simp [exec, execRxByte, h, ht]

/-! ## The statements about reset, construction and the completion of each command

`respond`, `raise`, `rxRestart` and `txLoad` are record updates by definition, so an equation of the
layer above is the statement's own equation of states. -/

/-- Settles O13: the reset state is the one constructed from this hardware's parameters. -/
theorem resetStateValues : Obligations.ResetStateValues :=
  ⟨(construct_sync _).trans pdfc1_syncByte, pdfc1_syncByte, rfl,
    construct_tx_active _, construct_tx_idx _, construct_tx_acc _,
    construct_rx_idx _, construct_rx_acc _, construct_inputs _, construct_responses _⟩

/-- Settles O15: the two bytes are the sync bytes of the two variants. -/
theorem constructionTakesOnlyTheTwoSyncBytes :
    Obligations.ConstructionTakesOnlyTheTwoSyncBytes := by
  intro b chk
  refine ⟨?_, fun hd hp => config_construct_eq_none hd hp chk⟩
  rintro (rfl | rfl)
  · exact ⟨_, config_construct_variant .d chk, rfl, rfl⟩
  · exact ⟨_, config_construct_variant .p chk, rfl, rfl⟩

/-- Settles O22. -/
theorem nopCompletes : Obligations.NopCompletes := fun s => exec_nop s

/-- Settles O23. -/
theorem illegalCompletes : Obligations.IllegalCompletes := fun w s => exec_illegal w s

/-- Settles O24. -/
theorem encodeCompletes : Obligations.EncodeCompletes := fun x s => exec_encodeFrame x s

/-- Settles O19: byte 6 of the frame that ENCODE's answer carries is its checksum byte. -/
theorem checksumIsTheBodySumModulo256 : Obligations.ChecksumIsTheBodySumModulo256 := by
  intro x s
  refine ⟨_, encodeCompletes x s, ?_⟩
  rw [dataByte_frameData]
  exact BitVec.toNat_ofNat _ 8

/-- Settles O25. -/
theorem decodeCompletes : Obligations.DecodeCompletes := fun f s hc hs =>
  (exec_decodeFrame f s).trans (congrArg _ (answerFrame_of_good hc hs))

/-- Settles O26. -/
theorem decodeAnswersItsErrors : Obligations.DecodeAnswersItsErrors := fun f s =>
  ⟨fun hc => (exec_decodeFrame f s).trans (congrArg _ (answerFrame_of_checksum_ne hc s)),
    fun hc hchk hs =>
      (exec_decodeFrame f s).trans (congrArg _ (answerFrame_of_sync_ne hc hchk hs))⟩

/-- Settles O27. -/
theorem txStartCompletes : Obligations.TxStartCompletes := fun x _ h => exec_txStart_idle x h

/-- Settles O28. -/
theorem txStartWhileBusyIsRefused : Obligations.TxStartWhileBusyIsRefused :=
  fun x _ h => exec_txStart_busy x h

/-- Settles O29, index by index. -/
theorem txNextCompletes : Obligations.TxNextCompletes := by
  intro s ha
  refine ⟨fun h => ?sync, fun k hk h => ?body, fun h => ?checksum⟩
  case sync =>
    exact exec_txNext_active ha (txByte_at s.tx 0 (by simp [h])) (txAdvance_at_zero s.tx h)
  case body => exact exec_txNext_active ha (txByte_at s.tx k h) (txAdvance_at_body s.tx k hk h)
  case checksum => exact exec_txNext_active ha (txByte_of_six s.tx h) (txAdvance_of_six s.tx h)

/-- Settles O30. -/
theorem txNextWhileIdleIsRefused : Obligations.TxNextWhileIdleIsRefused :=
  fun _ h => exec_txNext_idle h

/-- Settles O31, index by index. -/
theorem rxByteCompletes : Obligations.RxByteCompletes := by
  intro b s
  refine ⟨fun h => ?sync, fun k hk h => ?body, fun h hc hs => ?checksum⟩
  case sync => exact exec_rxByte_pending (by simp [h]) (rxStore_at_zero s.rx b h)
  case body => exact exec_rxByte_pending (by omega) (rxStore_at_body s.rx b k hk h)
  case checksum => exact exec_rxByte_at_six h (answerFrame_of_good hc hs)

/-- Settles O32. -/
theorem rxByteAnswersItsErrors : Obligations.RxByteAnswersItsErrors := fun _ _ h =>
  ⟨fun hc => exec_rxByte_at_six h (answerFrame_of_checksum_ne hc _),
    fun hc hchk hs => exec_rxByte_at_six h (answerFrame_of_sync_ne hc hchk hs)⟩

/-- Settles O33. -/
theorem rxClearCompletes : Obligations.RxClearCompletes := fun s => exec_rxClear s

end Sys2Proof.Machine

namespace Sys2Proof.Machine

/-! ## Steps, by the event offered (30_encoding.md R59, 70_reset_and_hazards.md R180) -/

theorem step_nil {s : State} (h : s.inputs = []) : step s = .next s := by
  simp [step, h]

theorem step_command {s : State} {w : CommandWord} {rest : List HostEvent}
    (h : s.inputs = .command w :: rest) : step s = exec (decode w) (takeInput s) := by
  simp [step, h]

theorem step_reset {s : State} {rest : List HostEvent} (h : s.inputs = .reset :: rest) :
    step s = .next (resetEvent (takeInput s)) := by
  simp [step, h]

/-- Past the body bytes, RX_BYTE restarts the channel and answers the verdict on the frame. -/
theorem exec_rxByte_full (b : Byte) {s : State} (h : ¬ s.rx.idx.toNat ≤ 5) :
    exec (.rxByte b) s =
      .next (answerFrame s.rx.acc (frameOf s.rx.buf b) { s with rx := rxRestart s.rx }) := by
  simp [exec, execRxByte, h]

/-! ## The sum of the body bytes moved so far (10_state.md R26) -/

@[simp] theorem bodySum_zero (buf : FrameBuf) : bodySum buf 0 = 0 := rfl

/-- The sync byte is no addend. -/
@[simp] theorem bodySum_one (buf : FrameBuf) : bodySum buf 1 = 0 := by
  simp [bodySum, List.drop_eq_nil_of_le]

/-- One more body byte is one more addend: the sum moves as the accumulators of `txAdvance` and
`rxStore` do. -/
theorem bodySum_succ (buf : FrameBuf) {n : Nat} (h : n ≤ 5) :
    bodySum buf (n + 1) = if 1 ≤ n then accumulate (bodySum buf n) buf[n] else bodySum buf n := by
  split
  · have htake : buf.toList.take (n + 1) = buf.toList.take n ++ [buf[n]] := by
      simp [List.take_succ_eq_append_getElem (l := buf.toList) (i := n) (by simp; omega)]
    have hdrop : (buf.toList.take n ++ [buf[n]]).drop 1 = (buf.toList.take n).drop 1 ++ [buf[n]] :=
      List.drop_append_of_le_length (by simp; omega)
    rw [accumulate_eq_add]
    simp only [bodySum, htake, hdrop, List.map_append, List.sum_append, List.map_cons, List.map_nil,
      List.sum_singleton, BitVec.ofNat_add, BitVec.ofNat_toNat, BitVec.setWidth_eq]
  · obtain rfl : n = 0 := by omega
    simp

/-- The entries from `n` on are no addends. -/
theorem bodySum_set (buf : FrameBuf) (b : Byte) {n : Nat} (h : n < 6) :
    bodySum (buf.set n b) n = bodySum buf n := by
  simp [bodySum, Vector.toList_set, List.take_set_of_le]

/-! ## The invariant, channel by channel (10_state.md R26) -/

/-- The serializer's lines of R26, with `SYNC` holding `sync`. -/
structure TxInv (sync : Byte) (c : TxChannel) : Prop where
  idle : c.active = false → c.idx = 0 ∧ c.acc = 0
  idx : c.active = true → c.idx.toNat ≤ 6
  acc : c.active = true → c.acc = bodySum c.buf c.idx.toNat
  sync : c.active = true → c.buf[0] = sync

/-- The deserializer's lines of R26. -/
structure RxInv (c : RxChannel) : Prop where
  idx : c.idx.toNat ≤ 6
  acc : c.acc = bodySum c.buf c.idx.toNat

theorem stateInv_iff (s : State) : StateInv s ↔ TxInv s.sync s.tx ∧ RxInv s.rx :=
  ⟨fun ⟨hidle, hidx, hacc, hsync, hri, hra⟩ => ⟨⟨hidle, hidx, hacc, hsync⟩, hri, hra⟩,
    fun ⟨⟨hidle, hidx, hacc, hsync⟩, hri, hra⟩ => ⟨hidle, hidx, hacc, hsync, hri, hra⟩⟩

theorem txInv_of_idle (sync : Byte) {c : TxChannel} (ha : c.active = false) (hi : c.idx = 0)
    (hc : c.acc = 0) : TxInv sync c := by
  constructor <;> simp [ha, hi, hc]

theorem txInv_txLoad (sync : Byte) (x : Body) : TxInv sync (txLoad sync x) := by
  constructor <;> simp [bufOf]

/-- Emitting from a frame in flight: at an index 0..5 the accumulator follows the body sum, and at 6
the channel goes idle. -/
theorem txInv_txAdvance {sync : Byte} {c : TxChannel} (h : TxInv sync c) (ha : c.active = true) :
    TxInv sync (txAdvance c) := by
  by_cases hi : c.idx.toNat ≤ 5
  · rw [txAdvance_of_le c hi]
    have hsucc := idx_succ_toNat c.idx hi
    refine ⟨fun hf => ?_, fun _ => ?_, fun _ => ?_, h.sync⟩
    · exact absurd hf (by simp [ha])
    · simp only [hsucc]
      omega
    · simp only [hsucc, bodySum_succ c.buf hi, ← h.acc ha, txByte_of_le c hi]
  · rw [txAdvance, if_neg hi]
    exact txInv_of_idle sync rfl rfl rfl

theorem rxInv_of_empty {c : RxChannel} (hi : c.idx = 0) (hc : c.acc = 0) : RxInv c := by
  constructor <;> simp [hi, hc]

/-- The byte stored at the index is the next addend and disturbs none of the earlier ones. -/
theorem rxInv_rxStore {c : RxChannel} (h : RxInv c) (b : Byte) (hi : c.idx.toNat ≤ 5) :
    RxInv (rxStore c b) := by
  rw [rxStore_of_le c b hi]
  have hsucc := idx_succ_toNat c.idx hi
  constructor
  · simp only [hsucc]
    omega
  · simp only [hsucc, bodySum_succ _ hi, bodySum_set c.buf b (n := c.idx.toNat) (by omega),
      ← h.acc, Vector.getElem_set_self]

theorem stateInv_construct (c : Config) : StateInv (State.construct c) :=
  (stateInv_iff _).2 ⟨txInv_of_idle _ rfl rfl rfl, rxInv_of_empty rfl rfl⟩

/-- The reset event needs no invariant to establish it. -/
theorem stateInv_resetEvent (s : State) : StateInv (resetEvent s) :=
  (stateInv_iff _).2 ⟨txInv_of_idle _ rfl rfl rfl, rxInv_of_empty rfl rfl⟩

/-- Every command keeps the invariant: it moves at most one channel, and each move keeps its
channel's lines. -/
theorem exec_keeps_stateInv {i : Instr} {s t : State} (h : StateInv s) (he : exec i s = .next t) :
    StateInv t := by
  rw [stateInv_iff] at h ⊢
  obtain ⟨htx, hrx⟩ := h
  obtain ⟨st, d, e⟩ | ⟨x, -, -, e⟩ | ⟨-, ha, e⟩ | ⟨b, -, hi, e⟩ | ⟨st, d, -, e⟩ :=
    exec_cases i s <;>
    (rw [e] at he; cases he)
  · exact ⟨htx, hrx⟩
  · exact ⟨txInv_txLoad s.sync x, hrx⟩
  · exact ⟨txInv_txAdvance htx ha, hrx⟩
  · exact ⟨htx, rxInv_rxStore hrx b hi⟩
  · exact ⟨htx, rxInv_of_empty rfl rfl⟩

theorem stateInv_takeInput {s : State} (h : StateInv s) : StateInv (takeInput s) :=
  (stateInv_iff _).2 ((stateInv_iff s).1 h)

theorem step_keeps_stateInv {s t : State} (h : StateInv s) (hst : step s = .next t) :
    StateInv t := by
  obtain ⟨-, rfl⟩ | ⟨w, rest, -, he⟩ | ⟨rest, -, rfl⟩ := step_cases s t hst
  · exact h
  · exact exec_keeps_stateInv (stateInv_takeInput h) he
  · exact stateInv_resetEvent _

/-! ## What each command reads and writes (10_state.md R24, R30)

Each lemma fixes the answer and the channel's move at `s` and says that every state which agrees
with `s` on what the command reads gets the same answer and the same move, and keeps all else. -/

/-- The verdict reads `SYNC` and the parameters. -/
theorem answerFrame_reads_sync (acc : Byte) (f : Frame) (s : State) :
    ∃ st d, ∀ u : State, u.config = s.config → u.sync = s.sync →
      answerFrame acc f u = respond st d u := by
  by_cases hc : acc = f.checksum
  · by_cases hs : s.config.syncCheck = true ∧ f.sync ≠ s.sync
    · obtain ⟨hchk, hne⟩ := hs
      exact ⟨.syncMismatch, 0, fun u hcfg hsync =>
        answerFrame_of_sync_ne hc (by rwa [hcfg]) (by rwa [hsync])⟩
    · rw [not_and_or, not_not, Bool.not_eq_true] at hs
      exact ⟨.ok, frameData f, fun u hcfg hsync => answerFrame_of_good hc (by rwa [hcfg, hsync])⟩
  · exact ⟨.checksumMismatch, 0, fun u _ _ => answerFrame_of_checksum_ne hc u⟩

/-- ENCODE, DECODE, NOP and an illegal word read `SYNC` and the parameters and write no state. -/
theorem exec_reads_sync {i : Instr} (hi : writesNoState i = true) (s : State) :
    ∃ st d, ∀ u : State, u.config = s.config → u.sync = s.sync →
      exec i u = .next (respond st d u) := by
  cases i with
  | nop => exact ⟨_, _, fun u _ _ => exec_nop u⟩
  | illegal w => exact ⟨_, _, fun u _ _ => exec_illegal w u⟩
  | encodeFrame x => exact ⟨_, _, fun u _ hsync => hsync ▸ exec_encodeFrame x u⟩
  | decodeFrame f =>
    obtain ⟨st, d, h⟩ := answerFrame_reads_sync (checksum f.body) f s
    exact ⟨st, d, fun u hcfg hsync => (exec_decodeFrame f u).trans (congrArg _ (h u hcfg hsync))⟩
  | txStart | txNext | rxByte | rxClear => cases hi

/-- A TX command reads `SYNC` and the serializer and writes the serializer. -/
theorem exec_reads_tx {i : Instr} (hi : (∃ x, i = .txStart x) ∨ i = .txNext) (s : State) :
    ∃ st d c, ∀ u : State, u.sync = s.sync → u.tx = s.tx →
      exec i u = .next (respond st d { u with tx := c }) := by
  obtain ⟨x, rfl⟩ | rfl := hi <;> cases ha : s.tx.active
  · refine ⟨.ok, 0, txLoad s.sync x, fun u hsync htx => ?_⟩
    rw [exec_txStart_idle x (by rwa [htx]), hsync]
  · refine ⟨.txBusy, 0, s.tx, fun u _ htx => ?_⟩
    rw [exec_txStart_busy x (by rwa [htx]), ← htx, raise]
  · refine ⟨.txIdle, 0, s.tx, fun u _ htx => ?_⟩
    rw [exec_txNext_idle (by rwa [htx]), ← htx, raise]
  · exact ⟨_, _, _, fun u _ htx => exec_txNext_active (by rwa [htx]) (by rw [htx]) (by rw [htx])⟩

/-- An RX command reads `SYNC`, the parameters and the deserializer and writes the deserializer. -/
theorem exec_reads_rx {i : Instr} (hi : (∃ b, i = .rxByte b) ∨ i = .rxClear) (s : State) :
    ∃ st d c, ∀ u : State, u.config = s.config → u.sync = s.sync → u.rx = s.rx →
      exec i u = .next (respond st d { u with rx := c }) := by
  obtain ⟨b, rfl⟩ | rfl := hi
  · by_cases hle : s.rx.idx.toNat ≤ 5
    · exact ⟨_, _, _, fun u _ _ hrx => exec_rxByte_pending (by rwa [hrx]) (by rw [hrx])⟩
    · obtain ⟨st, d, h⟩ := answerFrame_reads_sync s.rx.acc (frameOf s.rx.buf b) s
      refine ⟨st, d, rxRestart s.rx, fun u hcfg hsync hrx => ?_⟩
      rw [exec_rxByte_full b (by rwa [hrx]), hrx, h { u with rx := rxRestart s.rx } hcfg hsync]
  · exact ⟨_, _, _, fun u _ _ hrx => hrx ▸ exec_rxClear u⟩

/-- Every command is of one of the three kinds. -/
theorem instr_kinds (i : Instr) :
    writesNoState i = true ∨ ((∃ x, i = .txStart x) ∨ i = .txNext) ∨
      ((∃ b, i = .rxByte b) ∨ i = .rxClear) := by
  cases i <;> simp [writesNoState]

/-- No command reads the ports or the count of free values. -/
theorem exec_reads_state (i : Instr) (s : State) :
    ∃ st d c e, ∀ u : State, u.config = s.config → u.sync = s.sync → u.tx = s.tx → u.rx = s.rx →
      exec i u = .next (respond st d { u with tx := c, rx := e }) := by
  obtain hi | hi | hi := instr_kinds i
  · obtain ⟨st, d, h⟩ := exec_reads_sync hi s
    exact ⟨st, d, s.tx, s.rx, fun u hcfg hsync htx hrx => htx ▸ hrx ▸ h u hcfg hsync⟩
  · obtain ⟨st, d, c, h⟩ := exec_reads_tx hi s
    exact ⟨st, d, c, s.rx, fun u _ hsync htx hrx => hrx ▸ h u hsync htx⟩
  · obtain ⟨st, d, e, h⟩ := exec_reads_rx hi s
    exact ⟨st, d, s.tx, e, fun u hcfg hsync htx hrx => htx ▸ h u hcfg hsync hrx⟩

/-! ## Two runs that differ where no rule has written (10_state.md R27) -/

/-- Two deserializers that differ at most in the entries from the index on. -/
structure SameReceived (c d : RxChannel) : Prop where
  idx : c.idx = d.idx
  acc : c.acc = d.acc
  buf : ∀ k : Fin 6, k.val < c.idx.toNat → c.buf[k] = d.buf[k]

theorem sameReceived_of_empty {c d : RxChannel} (hc : c.idx = 0) (hd : d.idx = 0)
    (ha : c.acc = d.acc) : SameReceived c d :=
  ⟨hc.trans hd.symm, ha, fun k hk => by simp [hc] at hk⟩

theorem sameReceived_rxRestart (c d : RxChannel) : SameReceived (rxRestart c) (rxRestart d) :=
  sameReceived_of_empty (rxRestart_idx c) (rxRestart_idx d) rfl

/-- The byte stored at the index is the one entry that becomes observable. -/
theorem SameReceived.rxStore {c d : RxChannel} (h : SameReceived c d) (b : Byte)
    (hi : c.idx.toNat ≤ 5) : SameReceived (rxStore c b) (rxStore d b) := by
  rw [rxStore_of_le c b hi, rxStore_of_le d b (h.idx ▸ hi)]
  refine ⟨by simp [h.idx], by simp [h.idx, h.acc], fun k hk => ?_⟩
  simp only [idx_succ_toNat c.idx hi] at hk
  by_cases hkc : k.val = c.idx.toNat
  · simp [← h.idx, ← hkc]
  · have hlt : k.val < c.idx.toNat := by omega
    simpa [← h.idx, Vector.getElem_set_ne, Ne.symm hkc] using h.buf k hlt

/-- With six bytes received every entry is observable. -/
theorem SameReceived.eq_of_full {c d : RxChannel} (h : SameReceived c d)
    (hi : ¬ c.idx.toNat ≤ 5) : c = d := by
  have hbuf : c.buf = d.buf := Vector.ext fun k hk => h.buf ⟨k, hk⟩ (by simp; omega)
  calc c = ⟨c.buf, c.idx, c.acc⟩ := rfl
    _ = ⟨d.buf, d.idx, d.acc⟩ := by rw [hbuf, h.idx, h.acc]

section SameObservable
variable {s t : State} (h : SameObservable s t)
include h

theorem SameObservable.rx : SameReceived s.rx t.rx := ⟨h.rxIdx, h.rxAcc, h.rxBuf⟩

/-- With a frame in flight the whole serializer is observable. -/
theorem SameObservable.tx_eq (ha : s.tx.active = true) : s.tx = t.tx :=
  calc s.tx = ⟨s.tx.buf, s.tx.idx, s.tx.acc, s.tx.active⟩ := rfl
    _ = ⟨t.tx.buf, t.tx.idx, t.tx.acc, t.tx.active⟩ := by
      rw [h.txBuf ha, h.txIdx, h.txAcc, h.txActive]

theorem SameObservable.respond (st : Status) (d : Data) :
    SameObservable (respond st d s) (respond st d t) :=
  { h with responses := congrArg (· ++ [responseWord st d]) h.responses }

theorem SameObservable.takeInput : SameObservable (takeInput s) (takeInput t) :=
  { h with inputs := congrArg List.tail h.inputs }

theorem SameObservable.setTx {c d : TxChannel} (htx : c = d) :
    SameObservable { s with tx := c } { t with tx := d } :=
  { h with
    txIdx := congrArg _ htx, txAcc := congrArg _ htx, txActive := congrArg _ htx
    txBuf := fun _ => congrArg _ htx }

theorem SameObservable.setRx {c d : RxChannel} (hrx : SameReceived c d) :
    SameObservable { s with rx := c } { t with rx := d } :=
  { h with rxIdx := hrx.idx, rxAcc := hrx.acc, rxBuf := hrx.buf }

/-- The free values a reset event takes stand only where nothing can be observed. -/
theorem SameObservable.resetEvent : SameObservable (resetEvent s) (resetEvent t) :=
  { h with
    txIdx := rfl, txAcc := rfl, txActive := rfl, txBuf := fun hf => absurd hf (by simp)
    rxIdx := rfl, rxAcc := rfl
    rxBuf := (sameReceived_of_empty (resetEvent_rx_idx s) (resetEvent_rx_idx t) rfl).buf }

/-- A command's answer and the states it leaves depend on what is observable: an idle serializer's
buffer is overwritten or not read, and a buffer that a verdict reads is full. -/
theorem SameObservable.exec (i : Instr) :
    ∃ u v, exec i s = .next u ∧ exec i t = .next v ∧ SameObservable u v := by
  obtain hi | hi | hi := instr_kinds i
  · obtain ⟨st, d, he⟩ := exec_reads_sync hi s
    exact ⟨_, _, he s rfl rfl, he t h.config.symm h.sync.symm, h.respond st d⟩
  · cases ha : s.tx.active with
    | true =>
      obtain ⟨st, d, c, he⟩ := exec_reads_tx hi s
      exact ⟨_, _, he s rfl rfl, he t h.sync.symm (h.tx_eq ha).symm, (h.setTx rfl).respond st d⟩
    | false =>
      have ha' : t.tx.active = false := h.txActive ▸ ha
      obtain ⟨x, rfl⟩ | rfl := hi
      · exact ⟨_, _, exec_txStart_idle x ha, exec_txStart_idle x ha',
          (h.setTx (congrArg (txLoad · x) h.sync)).respond .ok 0⟩
      · exact ⟨_, _, exec_txNext_idle ha, exec_txNext_idle ha', h.respond .txIdle 0⟩
  · by_cases hle : s.rx.idx.toNat ≤ 5
    · obtain ⟨b, rfl⟩ | rfl := hi
      · exact ⟨_, _, exec_rxByte_pending hle rfl, exec_rxByte_pending (h.rxIdx ▸ hle) rfl,
          (h.setRx (h.rx.rxStore b hle)).respond .rxPending 0⟩
      · exact ⟨_, _, exec_rxClear s, exec_rxClear t,
          (h.setRx (sameReceived_rxRestart s.rx t.rx)).respond .ok 0⟩
    · have hrx := h.rx.eq_of_full hle
      obtain ⟨st, d, c, he⟩ := exec_reads_rx hi s
      exact ⟨_, _, he s rfl rfl rfl, he t h.config.symm h.sync.symm hrx.symm,
        (h.setRx ⟨rfl, rfl, fun _ _ => rfl⟩).respond st d⟩

theorem SameObservable.step : ∃ u v, step s = .next u ∧ step t = .next v ∧ SameObservable u v := by
  cases hin : s.inputs with
  | nil => exact ⟨s, t, step_nil hin, step_nil (h.inputs ▸ hin), h⟩
  | cons e rest =>
    have hin' := h.inputs ▸ hin
    cases e with
    | command w =>
      rw [step_command hin, step_command hin']
      exact h.takeInput.exec (decode w)
    | reset => exact ⟨_, _, step_reset hin, step_reset hin', h.takeInput.resetEvent⟩

end SameObservable

/-! ## The statements about the state (10_state.md) -/

/-- Settles O14. -/
theorem resetEventEmptiesBothChannels : Obligations.ResetEventEmptiesBothChannels := by
  intro s rest hin
  exact ⟨_, step_reset hin, by simp [hin, SyncFixed]⟩

/-- Settles O17. -/
theorem invariantHoldsAfterReset : Obligations.InvariantHoldsAfterReset :=
  ⟨stateInv_construct _, construct_sync _, fun c => ⟨stateInv_construct c, construct_sync c⟩⟩

/-- Settles O16, by the three things a step can be. -/
theorem syncIsReadOnly : Obligations.SyncIsReadOnly := by
  refine ⟨construct_sync, fun s t hst => ?_⟩
  obtain ⟨-, rfl⟩ | ⟨w, rest, -, he⟩ | ⟨rest, -, rfl⟩ := step_cases s t hst
  · exact ⟨rfl, rfl⟩
  · obtain ⟨hcfg, hsync, -⟩ := exec_frame _ _ _ he
    exact ⟨hsync, hcfg⟩
  · exact ⟨rfl, rfl⟩

/-- Settles O50: each kind of command answers from, and writes to, its own part of the state. -/
theorem channelsAreIndependent : Obligations.ChannelsAreIndependent := by
  refine ⟨fun i s t he => ⟨fun hi => ?_, fun hi => ?_, fun hi => ?_⟩, fun i s c hi => ?_,
    fun i s c hi => ?_, fun i s c d hi => ?_⟩
  · obtain ⟨st, d, c, h⟩ := exec_reads_tx hi s
    cases he.symm.trans (h s rfl rfl)
    rfl
  · obtain ⟨st, d, c, h⟩ := exec_reads_rx hi s
    cases he.symm.trans (h s rfl rfl rfl)
    rfl
  · obtain ⟨st, d, h⟩ := exec_reads_sync hi s
    cases he.symm.trans (h s rfl rfl)
    exact ⟨rfl, rfl⟩
  · obtain ⟨st, d, e, h⟩ := exec_reads_tx hi s
    exact ⟨_, h s rfl rfl, h { s with rx := c } rfl rfl⟩
  · obtain ⟨st, d, e, h⟩ := exec_reads_rx hi s
    exact ⟨_, h s rfl rfl rfl, h { s with tx := c } rfl rfl rfl⟩
  · obtain ⟨st, e, h⟩ := exec_reads_sync hi s
    exact ⟨_, h s rfl rfl, h { s with tx := c, rx := d } rfl rfl⟩

/-- Settles O51. -/
theorem earlierAnswersAreUnobservable : Obligations.EarlierAnswersAreUnobservable := by
  intro i s earlier
  obtain ⟨st, d, c, e, h⟩ := exec_reads_state i s
  exact ⟨_, responseWord st d, h s rfl rfl rfl rfl, rfl,
    h { s with responses := earlier } rfl rfl rfl rfl⟩

/-- Settles O18: a command's moves keep each channel's lines, and the reset event establishes
them. -/
theorem everyStepKeepsTheInvariant : Obligations.EveryStepKeepsTheInvariant := by
  refine ⟨fun s t => step_keeps_stateInv, fun s t rest hin hst => ?_, stateInv_construct⟩
  cases hst.symm.trans (step_reset hin)
  exact stateInv_resetEvent _

/-- Settles O52, by induction on the number of steps: each step keeps `SameObservable`. -/
theorem unwrittenBufferBytesAreUnobservable : Obligations.UnwrittenBufferBytesAreUnobservable := by
  intro n
  induction n with
  | zero => exact fun s t h => ⟨s, t, runSteps_zero s, runSteps_zero t, h.responses, h⟩
  | succ n ih =>
    intro s t h
    obtain ⟨s', t', hs, ht, h'⟩ := h.step
    rw [runSteps_succ n s s' hs, runSteps_succ n t t' ht]
    exact ih s' t' h'

end Sys2Proof.Machine

namespace Sys2Proof

/-! ## A command's word decodes to the command (30_encoding.md R62, R65, R70) -/

/-- A body's bits stand in operand bytes 1 to 5, in wire order, and leave bytes 0 and 6 clear. -/
theorem operandByte_bodyBits (x : Body) (k : Fin 7) :
    operandByte (bodyBits x) k = Machine.frameByte ⟨0, x, 0⟩ k := by
  have h1 : operandByte (shifted x.unitAddress 40) k = _ := operandByte_shifted _ 1 k
  have h2 : operandByte (shifted x.command1 32) k = _ := operandByte_shifted _ 2 k
  have h3 : operandByte (shifted x.command2 24) k = _ := operandByte_shifted _ 3 k
  have h4 : operandByte (shifted x.data1 16) k = _ := operandByte_shifted _ 4 k
  have h5 : operandByte (shifted x.data2 8) k = _ := operandByte_shifted _ 5 k
  simp only [bodyBits, operandByte_or, h1, h2, h3, h4, h5]
  fin_cases k <;> simp [Machine.frameByte]

/-- Under a header with no operand bits, a body reads back as the word's body operands. -/
theorem bodyOperands_or_bodyBits {hdr : CommandWord} (h : ∀ k, operandByte hdr k = 0) (x : Body) :
    bodyOperands (hdr ||| bodyBits x) = x := by
  simp [bodyOperands, operandByte_or, h, operandByte_bodyBits, Machine.frameByte]

/-- Under such a header, DECODE's operand bytes are the frame. -/
theorem frameOperands_or_frame {hdr : CommandWord} (h : ∀ k, operandByte hdr k = 0) (f : Frame) :
    frameOperands (hdr ||| shifted f.sync 48 ||| bodyBits f.body ||| shifted f.checksum 0) = f := by
  have h0 (k : Fin 7) : operandByte (shifted f.sync 48) k = _ := operandByte_shifted _ 0 k
  have h6 (k : Fin 7) : operandByte (shifted f.checksum 0) k = _ := operandByte_shifted _ 6 k
  simp [frameOperands, bodyOperands, operandByte_or, h, h0, h6, operandByte_bodyBits,
    Machine.frameByte]

/-- Under such a header, RX_BYTE's operand is the byte. -/
theorem operandByte_or_shifted_zero {hdr : CommandWord} (h : operandByte hdr 6 = 0) (b : Byte) :
    operandByte (hdr ||| shifted b 0) 6 = b := by
  have h6 : operandByte (shifted b 0) 6 = b := operandByte_shifted b 6 6
  rw [operandByte_or, h, h6]
  exact BitVec.zero_or

theorem opField_or_bodyBits (hdr : CommandWord) (x : Body) :
    opField (hdr ||| bodyBits x) = opField hdr := by
  simp [opField_or, opField_bodyBits]

theorem rsvField_or_bodyBits (hdr : CommandWord) (x : Body) :
    rsvField (hdr ||| bodyBits x) = rsvField hdr := by
  simp [rsvField_or, rsvField_bodyBits]

theorem opField_or_shifted (w : CommandWord) (b : Byte) {n : Nat} (h : n ≤ 48) :
    opField (w ||| shifted b n) = opField w := by
  simp [opField_or, opField_shifted b n h]

theorem rsvField_or_shifted (w : CommandWord) (b : Byte) {n : Nat} (h : n ≤ 48) :
    rsvField (w ||| shifted b n) = rsvField w := by
  simp [rsvField_or, rsvField_shifted b n h]

/-- An illegal word decodes to itself, whichever field makes it illegal (30_encoding.md R64). -/
theorem decode_of_illegalWord {w : CommandWord} (h : illegalWord w = true) :
    decode w = .illegal w := by
  obtain ho | hr := (illegalWord_iff w).1 h
  · exact decode_reservedOp w ho
  · exact decode_reserved w hr

/-- Decoding undoes encoding: the header names the operation and each operand byte reads back. -/
theorem decode_encode {i : Instr} (h : i.wellFormed = true) : decode (encode i) = i := by
  cases i with
  | nop => exact decode_nop _ (by decide) (by decide)
  | encodeFrame x =>
    exact (decode_encodeFrame _ (rsvField_or_bodyBits _ x) (opField_or_bodyBits _ x)).trans
      (congrArg _ (bodyOperands_or_bodyBits (by decide) x))
  | decodeFrame f =>
    have hr : rsvField (encode (.decodeFrame f)) = 0#5 := by
      rw [encode, rsvField_or_shifted _ _ (by decide), rsvField_or_bodyBits,
        rsvField_or_shifted _ _ (by decide)]
      decide
    have ho : opField (encode (.decodeFrame f)) = 0b010#3 := by
      rw [encode, opField_or_shifted _ _ (by decide), opField_or_bodyBits,
        opField_or_shifted _ _ (by decide)]
      decide
    exact (decode_decodeFrame _ hr ho).trans (congrArg _ (frameOperands_or_frame (by decide) f))
  | txStart x =>
    exact (decode_txStart _ (rsvField_or_bodyBits _ x) (opField_or_bodyBits _ x)).trans
      (congrArg _ (bodyOperands_or_bodyBits (by decide) x))
  | txNext => exact decode_txNext _ (by decide) (by decide)
  | rxByte b =>
    exact (decode_rxByte _ (rsvField_or_shifted _ b (by decide))
      (opField_or_shifted _ b (by decide))).trans
        (congrArg _ (operandByte_or_shifted_zero (by decide) b))
  | rxClear => exact decode_rxClear _ (by decide) (by decide)
  | illegal w => exact decode_of_illegalWord h

end Sys2Proof

namespace Sys2Proof.Machine

/-! ## What the assembler takes (20_memory.md R49, 30_encoding.md R69) -/

/-- Operands up to 255 reach the form as the bytes written. -/
theorem assemble_of_le (op : AsmOp) {ns : List Nat} (h : ∀ n ∈ ns, n ≤ 255) :
    assemble op ns = asmForm op (ns.map (BitVec.ofNat 8)) := by
  rw [assemble_eq, if_pos h]

theorem assemble_of_gt (op : AsmOp) {ns : List Nat} (h : ∃ n ∈ ns, 255 < n) :
    assemble op ns = none := by
  obtain ⟨n, hn, hgt⟩ := h
  rw [assemble_eq, if_neg fun hall => absurd (hall n hn) (by omega)]

/-- Everything `assemble` can answer: a legal command, from the form's number of bytes. -/
theorem assemble_cases {op : AsmOp} {ns : List Nat} {i : Instr} (h : assemble op ns = some i) :
    ns.length = op.operandCount ∧ (∀ n ∈ ns, n ≤ 255) ∧ i.wellFormed = true ∧
      ∀ w, i ≠ .illegal w := by
  rw [assemble_eq] at h
  split at h
  case isTrue hall =>
    obtain ⟨hlen, hwf, hlegal⟩ := asmForm_cases op _ i h
    exact ⟨by simpa using hlen, hall, hwf, hlegal⟩
  case isFalse => cases h

/-- An operand up to 255 is the byte it is made into. -/
theorem byte_ofNat_toNat {n : Nat} (h : n ≤ 255) : (BitVec.ofNat 8 n).toNat = n := by
  rw [BitVec.toNat_ofNat]
  omega

/-- A comment changes nothing of what a line assembles to. -/
theorem assembleLine_comment (line comment : List Char) :
    assembleLine (line ++ ';' :: comment) = assembleLine line := by
  simp only [assembleLine, lineMnemonic, lineOperands, lineText_comment]

/-! ## What an action expands to (30_encoding.md R72) -/

theorem actionBody_eq {t : ActionTable} {a : ActionName} {e : ActionEntry} {p : ActionOperand}
    {d1 d2 : Byte} (he : lookupAction t a = some e) (hd : actionData e.shape p = some (d1, d2))
    (addr : Byte) : actionBody t a addr p = some ⟨addr, e.cmd1, e.cmd2, d1, d2⟩ := by
  simp only [actionBody, he, hd]

/-- A position goes high byte first (20_memory.md R45). -/
theorem actionData_position (d1 d2 : Byte) :
    actionData .position (.position (d1 ++ d2)) = some (d1, d2) := by
  have hhigh : (d1 ++ d2).extractLsb' 8 8 = d1 := by grind
  have hlow : (d1 ++ d2).extractLsb' 0 8 = d2 := by grind
  rw [actionData, hhigh, hlow]

/-! ## The response word and the step (30_encoding.md R59, R67) -/

/-- A status's code names the status. -/
theorem ofCode_code (st : Status) : Status.ofCode st.code = some st := by
  cases st <;> rfl

theorem takeInput_eq {s : State} {e : HostEvent} {rest : List HostEvent}
    (h : s.inputs = e :: rest) : takeInput s = { s with inputs := rest } := by
  rw [takeInput, h, List.tail_cons]

/-! ## Commands run twice (20_memory.md R51) -/

theorem rxRestart_rxRestart (c : RxChannel) : rxRestart (rxRestart c) = rxRestart c := rfl

/-- After TX_START a frame is in flight, whether it was loaded now or before. -/
theorem active_of_exec_txStart {x : Body} {s t : State} (he : exec (.txStart x) s = .next t) :
    t.tx.active = true := by
  cases ha : s.tx.active with
  | false =>
    cases he.symm.trans (exec_txStart_idle x ha)
    exact txLoad_active s.sync x
  | true =>
    cases he.symm.trans (exec_txStart_busy x ha)
    exact ha

/-! ## The statements about bytes, words and one step (20_memory.md, 30_encoding.md) -/

/-- Settles O57: the range is checked before the form, and a form takes the bytes as written. -/
theorem assemblerRefusesOperandsAbove255 : Obligations.AssemblerRefusesOperandsAbove255 := by
  refine ⟨fun op ns => assemble_of_gt op, fun op ns hlen => ?_, fun op ns i h => ?_,
    ⟨rfl, rfl, rfl⟩, fun a c1 c2 d1 d2 ha hc1 hc2 hd1 hd2 => ?_,
    fun b0 b1 b2 b3 b4 b5 b6 h0 h1 h2 h3 h4 h5 h6 => ?_, fun n hn => ?_, fun a v ha hv => ?_,
    assembleLine_eq_some_iff, assembleLine_comment⟩
  · refine Option.eq_none_iff_forall_ne_some.2 fun i h => ?_
    obtain ⟨hcount, -⟩ := assemble_cases h
    exact hlen hcount
  · obtain ⟨hcount, hall, hwf, hlegal⟩ := assemble_cases h
    exact ⟨hwf, hlegal, decode_encode hwf, hcount, hall⟩
  · have hall : ∀ n ∈ [a, c1, c2, d1, d2], n ≤ 255 := by simp [*]
    exact ⟨_, assemble_of_le .encode hall, assemble_of_le .txStart hall, byte_ofNat_toNat ha,
      byte_ofNat_toNat hc1, byte_ofNat_toNat hc2, byte_ofNat_toNat hd1, byte_ofNat_toNat hd2⟩
  · have hall : ∀ n ∈ [b0, b1, b2, b3, b4, b5, b6], n ≤ 255 := by simp [*]
    exact ⟨_, assemble_of_le .decode hall, byte_ofNat_toNat h0, byte_ofNat_toNat h1,
      byte_ofNat_toNat h2, byte_ofNat_toNat h3, byte_ofNat_toNat h4, byte_ofNat_toNat h5,
      byte_ofNat_toNat h6⟩
  · exact ⟨_, assemble_of_le .rxByte (by simp [hn]), byte_ofNat_toNat hn⟩
  · have hall : ∀ n ∈ [a, v], n ≤ 255 := by simp [*]
    exact ⟨_, _, assemble_of_le .panRight hall, assemble_of_le .txPanRight hall,
      byte_ofNat_toNat ha, byte_ofNat_toNat hv⟩

/-- Settles O43: a command that writes no state reads no earlier answer, restarting a restarted
deserializer changes nothing, and TX_START leaves a frame in flight. -/
theorem whichCommandsAreIdempotent : Obligations.WhichCommandsAreIdempotent := by
  refine ⟨fun i s hi => ?_, fun s t he => ?_, fun x y s t he =>
    exec_txStart_busy y (active_of_exec_txStart he)⟩
  · obtain ⟨st, d, h⟩ := exec_reads_sync hi s
    exact ⟨responseWord st d, h s rfl rfl, h _ rfl rfl⟩
  · cases he.symm.trans (exec_rxClear s)
    refine ⟨responseWord .ok 0, (exec_rxClear _).trans ?_⟩
    simp only [respond, rxRestart_rxRestart]

/-- Settles O8. -/
theorem responseFieldsReadBack : Obligations.ResponseFieldsReadBack := fun st d f =>
  ⟨statusField_responseWord st d, zeroField_responseWord st d, dataField_responseWord st d,
    (congrArg _ (statusField_responseWord st d)).trans (ofCode_code st), dataByte_frameData st f⟩

/-- Settles O9. -/
theorem stepRunsTheDecodedCommand : Obligations.StepRunsTheDecodedCommand := fun s w rest h => by
  rw [step_command h, takeInput_eq h]

/-- Settles O58: for each shape, the data bytes its operand gives. -/
theorem pseudoInstructionsExpand : Obligations.PseudoInstructionsExpand := by
  refine ⟨fun addr speed => ⟨rfl, rfl⟩, fun t a e addr p d1 d2 he hshape => ?_⟩
  have hd : actionData e.shape p = some (d1, d2) := by
    obtain ⟨hs, rfl⟩ | ⟨hs, rfl⟩ | ⟨hs, rfl⟩ | ⟨hs, rfl⟩ := hshape <;> rw [hs]
    · rfl
    · rfl
    · rfl
    · exact actionData_position d1 d2
  rw [expandEncodeAct, expandTxAct, actionBody_eq he hd addr]
  exact ⟨rfl, rfl⟩

end Sys2Proof.Machine

namespace Sys2Proof

/-! ## A word's header selects its row (30_encoding.md R60, R63, R65) -/

/-- Everything a word can decode to, each operation with its header: `RSV` = 0 and its own `OP`. -/
theorem decode_cases (w : CommandWord) :
    (illegalWord w = true ∧ decode w = .illegal w) ∨
    (rsvField w = 0#5 ∧
      ((opField w = 0b000#3 ∧ decode w = .nop) ∨
        (opField w = 0b001#3 ∧ decode w = .encodeFrame (bodyOperands w)) ∨
        (opField w = 0b010#3 ∧ decode w = .decodeFrame (frameOperands w)) ∨
        (opField w = 0b011#3 ∧ decode w = .txStart (bodyOperands w)) ∨
        (opField w = 0b100#3 ∧ decode w = .txNext) ∨
        (opField w = 0b101#3 ∧ decode w = .rxByte (operandByte w 6)) ∨
        (opField w = 0b110#3 ∧ decode w = .rxClear))) := by
  by_cases hill : illegalWord w = true
  · exact .inl ⟨hill, decode_of_illegalWord hill⟩
  · obtain ⟨hop, hrsv⟩ := not_or.1 (mt (illegalWord_iff w).2 hill)
    have hr : rsvField w = 0#5 := not_not.1 hrsv
    have hops : ∀ o : BitVec 3, o ≠ 0b111#3 →
        o = 0b000#3 ∨ o = 0b001#3 ∨ o = 0b010#3 ∨ o = 0b011#3 ∨ o = 0b100#3 ∨ o = 0b101#3 ∨
          o = 0b110#3 := by decide
    refine .inr ⟨hr, (hops _ hop).imp (fun ho => ⟨ho, decode_nop w hr ho⟩) ?_⟩
    refine Or.imp (fun ho => ⟨ho, decode_encodeFrame w hr ho⟩) ?_
    refine Or.imp (fun ho => ⟨ho, decode_decodeFrame w hr ho⟩) ?_
    refine Or.imp (fun ho => ⟨ho, decode_txStart w hr ho⟩) ?_
    refine Or.imp (fun ho => ⟨ho, decode_txNext w hr ho⟩) ?_
    exact Or.imp (fun ho => ⟨ho, decode_rxByte w hr ho⟩) fun ho => ⟨ho, decode_rxClear w hr ho⟩

theorem decode_wellFormed (w : CommandWord) : (decode w).wellFormed = true := by
  obtain ⟨hill, h⟩ | ⟨-, ⟨-, h⟩ | ⟨-, h⟩ | ⟨-, h⟩ | ⟨-, h⟩ | ⟨-, h⟩ | ⟨-, h⟩ | ⟨-, h⟩⟩ :=
    decode_cases w <;> rw [h]
  case inl => exact hill
  all_goals rfl

/-- Words with one header decode to commands of one row, which use the same bits. -/
theorem decode_sameRow {w v : CommandWord} (ho : opField v = opField w)
    (hr : rsvField v = rsvField w) :
    (decode v).mnemonic = (decode w).mnemonic ∧ (decode v).usedBits = (decode w).usedBits := by
  unfold decode
  rw [ho, hr]
  split
  · exact ⟨rfl, rfl⟩
  · split <;> exact ⟨rfl, rfl⟩

/-! ## Masking a word, field by field (30_encoding.md R62, R63) -/

/-- A word is another one masked when it is so in each field. -/
theorem eq_and_of_fields {e w m : CommandWord} (ho : opField e = opField w &&& opField m)
    (hr : rsvField e = rsvField w &&& rsvField m)
    (hb : ∀ k, operandByte e k = operandByte w k &&& operandByte m k) : e = w &&& m :=
  word_ext _ _ (by rw [ho, opField_and]) (by rw [hr, rsvField_and])
    fun k => by rw [hb, operandByte_and]

/-- The header fields of a mask that covers the header are all ones. -/
theorem header_usedBits (i : Instr) :
    opField i.usedBits = BitVec.allOnes 3 ∧ rsvField i.usedBits = BitVec.allOnes 5 := by
  cases i <;> (simp only [Instr.usedBits]; decide)

/-- Words equal under a mask that covers `OP` and `RSV` have the same header. -/
theorem header_of_and_eq {w v m : CommandWord} (hmo : opField m = BitVec.allOnes 3)
    (hmr : rsvField m = BitVec.allOnes 5) (h : w &&& m = v &&& m) :
    opField v = opField w ∧ rsvField v = rsvField w := by
  have ho := congrArg opField h
  have hr := congrArg rsvField h
  rw [opField_and, opField_and, hmo, BitVec.and_allOnes, BitVec.and_allOnes] at ho
  rw [rsvField_and, rsvField_and, hmr, BitVec.and_allOnes, BitVec.and_allOnes] at hr
  exact ⟨ho.symm, hr.symm⟩

/-! ## Encoding what was decoded (30_encoding.md R62, R69, R70) -/

section
variable {hdr w : CommandWord} (ho : opField w = opField hdr) (hr : rsvField w = rsvField hdr)
  (hb : ∀ k, operandByte hdr k = 0#8)
include ho hr hb

/-- A word of an operation without operands, its operand bytes cleared, is the bare header. -/
theorem header_eq_and : hdr = w &&& 0xFF00000000000000 := by
  have hm : ∀ k, operandByte 0xFF00000000000000 k = 0 := by decide
  refine eq_and_of_fields ?_ ?_ fun k => ?_
  · exact ho.symm.trans BitVec.and_allOnes.symm
  · exact hr.symm.trans BitVec.and_allOnes.symm
  · rw [hb, hm]
    exact BitVec.and_zero.symm

/-- The header with a word's body operands is the word with B0 and B6 cleared. -/
theorem header_or_bodyOperands_eq_and :
    hdr ||| bodyBits (bodyOperands w) = w &&& 0xFF00FFFFFFFFFF00 := by
  refine eq_and_of_fields ?_ ?_ fun k => ?_
  · exact ((opField_or_bodyBits hdr _).trans ho.symm).trans BitVec.and_allOnes.symm
  · exact ((rsvField_or_bodyBits hdr _).trans hr.symm).trans BitVec.and_allOnes.symm
  · rw [operandByte_or, hb, operandByte_bodyBits, BitVec.zero_or]
    fin_cases k
    · exact BitVec.and_zero.symm
    iterate 5 exact BitVec.and_allOnes.symm
    · exact BitVec.and_zero.symm

/-- The header with all seven operand bytes of a word is the word. -/
theorem header_or_frameOperands_eq :
    hdr ||| shifted (frameOperands w).sync 48 ||| bodyBits (frameOperands w).body
      ||| shifted (frameOperands w).checksum 0 = w := by
  have h0 (k : Fin 7) : operandByte (shifted (operandByte w 0) 48) k = _ :=
    operandByte_shifted _ 0 k
  have h6 (k : Fin 7) : operandByte (shifted (operandByte w 6) 0) k = _ :=
    operandByte_shifted _ 6 k
  refine word_ext _ _ ?_ ?_ fun k => ?_
  · rw [opField_or_shifted _ _ (by decide), opField_or_bodyBits, opField_or_shifted _ _ (by decide),
      ho]
  · rw [rsvField_or_shifted _ _ (by decide), rsvField_or_bodyBits,
      rsvField_or_shifted _ _ (by decide), hr]
  · simp only [frameOperands, operandByte_or, hb, h0, h6, operandByte_bodyBits]
    fin_cases k <;> simp [Machine.frameByte, bodyOperands]

/-- The header with a word's last operand byte is the word with B0..B5 cleared. -/
theorem header_or_lastOperand_eq_and :
    hdr ||| shifted (operandByte w 6) 0 = w &&& 0xFF000000000000FF := by
  have h6 (k : Fin 7) : operandByte (shifted (operandByte w 6) 0) k = _ := operandByte_shifted _ 6 k
  refine eq_and_of_fields ?_ ?_ fun k => ?_
  · exact ((opField_or_shifted hdr _ (by decide)).trans ho.symm).trans BitVec.and_allOnes.symm
  · exact ((rsvField_or_shifted hdr _ (by decide)).trans hr.symm).trans BitVec.and_allOnes.symm
  · rw [operandByte_or, hb, h6, BitVec.zero_or]
    fin_cases k
    iterate 6 exact BitVec.and_zero.symm
    · exact BitVec.and_allOnes.symm

end

theorem encode_decode (w : CommandWord) : encode (decode w) = w &&& (decode w).usedBits := by
  obtain ⟨-, h⟩ | ⟨hr, ⟨ho, h⟩ | ⟨ho, h⟩ | ⟨ho, h⟩ | ⟨ho, h⟩ | ⟨ho, h⟩ | ⟨ho, h⟩ | ⟨ho, h⟩⟩ :=
    decode_cases w <;> rw [h]
  · exact BitVec.and_allOnes.symm
  · exact header_eq_and ho hr (by decide)
  · exact header_or_bodyOperands_eq_and ho hr (by decide)
  · exact (header_or_frameOperands_eq ho hr (by decide)).trans BitVec.and_allOnes.symm
  · exact header_or_bodyOperands_eq_and ho hr (by decide)
  · exact header_eq_and ho hr (by decide)
  · exact header_or_lastOperand_eq_and ho hr (by decide)
  · exact header_eq_and ho hr (by decide)

/-! ## The opcode table's rows (30_encoding.md R63) -/

/-- A row's match decodes to the row's operation, and its mask covers the whole header, or `OP`
alone in the reserved row. -/
theorem opcodeRows_header {r : OpcodeRow} (h : r ∈ opcodeRows) :
    (decode r.bits).mnemonic = r.mnemonic ∧ opField r.mask = BitVec.allOnes 3 ∧
      (rsvField r.mask = BitVec.allOnes 5 ∨ opField r.bits = 0b111#3) := by
  revert r
  decide

/-- Each `OP` has a row, whose mask covers `OP` and no operand byte. -/
theorem opcodeRow_of_op (o : BitVec 3) :
    ∃ r ∈ opcodeRows, opField r.bits = o ∧ opField r.mask = BitVec.allOnes 3 ∧
      rsvField r.bits = 0 ∧ ∀ k, operandByte r.bits k = 0 ∧ operandByte r.mask k = 0 := by
  revert o
  decide

/-- A word with `RSV` = 0 selects the row of its `OP`. -/
theorem selects_of_rsvField_zero {w : CommandWord} (h : rsvField w = 0#5) :
    ∃ r ∈ opcodeRows, w &&& r.mask = r.bits := by
  obtain ⟨r, hmem, ho, hmo, hr, hb⟩ := opcodeRow_of_op (opField w)
  refine ⟨r, hmem, (eq_and_of_fields ?_ ?_ fun k => ?_).symm⟩
  · rw [ho, hmo, BitVec.and_allOnes]
  · rw [hr, h]
    exact BitVec.zero_and.symm
  · rw [(hb k).1, (hb k).2]
    exact BitVec.and_zero.symm

/-- A word decodes to the operation of any row it selects. -/
theorem decode_mnemonic_of_selects {w : CommandWord} {r : OpcodeRow} (hmem : r ∈ opcodeRows)
    (h : w &&& r.mask = r.bits) : (decode w).mnemonic = r.mnemonic := by
  obtain ⟨hrow, hmo, hmask⟩ := opcodeRows_header hmem
  have hidem : w &&& r.mask = r.bits &&& r.mask := by
    rw [← h, BitVec.and_assoc, BitVec.and_self]
  rw [← hrow]
  obtain hmr | hop := hmask
  · obtain ⟨ho, hr⟩ := header_of_and_eq hmo hmr hidem
    exact (decode_sameRow ho hr).1.symm
  · have ho : opField w = 0b111#3 := by
      rw [← hop, ← h, opField_and, hmo, BitVec.and_allOnes]
    rw [decode_reservedOp w ho, decode_reservedOp r.bits hop]
    rfl

end Sys2Proof

namespace Sys2Proof.Machine

/-! ## The one response word of a command (30_encoding.md R59, R67, 60_exceptions.md R150) -/

/-- Every command ends in one response, with data 0 unless its status is OK. -/
theorem exec_responds (i : Instr) (s : State) :
    ∃ st d u, exec i s = .next (respond st d u) ∧ u.responses = s.responses ∧
      (st ≠ .ok → d = 0) := by
  cases i with
  | nop => exact ⟨.ok, 0, s, exec_nop s, rfl, fun _ => rfl⟩
  | encodeFrame x => exact ⟨.ok, _, s, exec_encodeFrame x s, rfl, fun hne => absurd rfl hne⟩
  | decodeFrame f =>
    obtain ⟨st, d, h, hd⟩ := answerFrame_frame (checksum f.body) f s
    exact ⟨st, d, s, (exec_decodeFrame f s).trans (congrArg _ h), rfl, hd⟩
  | txStart x =>
    cases ha : s.tx.active with
    | false => exact ⟨.ok, 0, _, exec_txStart_idle x ha, rfl, fun _ => rfl⟩
    | true => exact ⟨.txBusy, 0, s, exec_txStart_busy x ha, rfl, fun _ => rfl⟩
  | txNext =>
    cases ha : s.tx.active with
    | false => exact ⟨.txIdle, 0, s, exec_txNext_idle ha, rfl, fun _ => rfl⟩
    | true => exact ⟨.ok, _, _, exec_txNext_active ha rfl rfl, rfl, fun hne => absurd rfl hne⟩
  | rxByte b =>
    by_cases hi : s.rx.idx.toNat ≤ 5
    · exact ⟨.rxPending, 0, _, exec_rxByte_pending hi rfl, rfl, fun _ => rfl⟩
    · obtain ⟨st, d, h, hd⟩ :=
        answerFrame_frame s.rx.acc (frameOf s.rx.buf b) { s with rx := rxRestart s.rx }
      exact ⟨st, d, _, (exec_rxByte_full b hi).trans (congrArg _ h), rfl, hd⟩
  | rxClear => exact ⟨.ok, 0, _, exec_rxClear s, rfl, fun _ => rfl⟩
  | illegal w => exact ⟨.illegalOp, 0, s, exec_illegal w s, rfl, fun _ => rfl⟩

/-- The named codes are 0..6. -/
theorem status_code_le (st : Status) : st.code.toNat ≤ 6 := by
  cases st <;> decide

/-! ## The words of the assembly forms, as numbers (30_encoding.md R70) -/

/-- An operand in its place is the operand shifted, as numbers. -/
theorem shifted_ofNat_toNat {n k : Nat} (hn : n ≤ 255) (hk : k ≤ 56) :
    (shifted (BitVec.ofNat 8 n) k).toNat = n <<< k := by
  rw [shifted_toNat _ _ hk, byte_ofNat_toNat hn, Nat.shiftLeft_eq]

/-- A body's operands join whatever stands before them, each in its place. -/
theorem or_bodyBits_ofNat_toNat (w : CommandWord) {a c1 c2 d1 d2 : Nat} (ha : a ≤ 255)
    (hc1 : c1 ≤ 255) (hc2 : c2 ≤ 255) (hd1 : d1 ≤ 255) (hd2 : d2 ≤ 255) :
    (w ||| bodyBits ⟨BitVec.ofNat 8 a, BitVec.ofNat 8 c1, BitVec.ofNat 8 c2, BitVec.ofNat 8 d1,
        BitVec.ofNat 8 d2⟩).toNat
      = w.toNat ||| a <<< 40 ||| c1 <<< 32 ||| c2 <<< 24 ||| d1 <<< 16 ||| d2 <<< 8 := by
  simp only [bodyBits, BitVec.toNat_or, shifted_ofNat_toNat ha (by decide : 40 ≤ 56),
    shifted_ofNat_toNat hc1 (by decide : 32 ≤ 56), shifted_ofNat_toNat hc2 (by decide : 24 ≤ 56),
    shifted_ofNat_toNat hd1 (by decide : 16 ≤ 56), shifted_ofNat_toNat hd2 (by decide : 8 ≤ 56),
    Nat.or_assoc]

/-! ## The statements about encoding and answers (30_encoding.md) -/

/-- Settles O1. -/
theorem decodeOfEncodeIsTheCommand : Obligations.DecodeOfEncodeIsTheCommand :=
  fun _ => decode_encode

/-- Settles O2. -/
theorem encodeOfDecodeClearsIgnoredBytes : Obligations.EncodeOfDecodeClearsIgnoredBytes :=
  encode_decode

/-- Settles O3: such words have one header, so the commands encode to one word, which decodes to
both. -/
theorem ignoredBytesHaveNoEffect : Obligations.IgnoredBytesHaveNoEffect := by
  intro w v h
  obtain ⟨hmo, hmr⟩ := header_usedBits (decode w)
  obtain ⟨ho, hr⟩ := header_of_and_eq hmo hmr h
  obtain ⟨-, hused⟩ := decode_sameRow ho hr
  calc decode v = decode (encode (decode v)) := (decode_encode (decode_wellFormed v)).symm
    _ = decode (v &&& (decode w).usedBits) := by rw [encode_decode, hused]
    _ = decode (encode (decode w)) := by rw [encode_decode, h]
    _ = decode w := decode_encode (decode_wellFormed w)

/-- Settles O5. -/
theorem decodedCommandsAreWellFormed : Obligations.DecodedCommandsAreWellFormed := decode_wellFormed

/-- Settles O6. -/
theorem decodingFollowsTheOpcodeTable : Obligations.DecodingFollowsTheOpcodeTable := by
  refine fun w => ⟨fun r hmem => decode_mnemonic_of_selects hmem, fun hnone => ?_⟩
  have hr : rsvField w ≠ 0#5 := fun h0 => by
    obtain ⟨r, hmem, hsel⟩ := selects_of_rsvField_zero h0
    exact hnone r hmem hsel
  exact ⟨hr, decode_reserved w hr⟩

/-- Settles O11, by the three things a step can be. -/
theorem oneResponsePerCommandWord : Obligations.OneResponsePerCommandWord := by
  refine fun s t hst => ⟨fun w rest hin => ?_, fun rest hin => ?_, fun hin => ?_⟩
  · obtain ⟨-, -, hinputs, -, st, d, hres⟩ := exec_frame _ _ _ ((step_command hin).symm.trans hst)
    exact ⟨by rw [hinputs, takeInput_inputs, hin, List.tail_cons], _, hres⟩
  · cases hst.symm.trans (step_reset hin)
    exact ⟨by rw [resetEvent_inputs, takeInput_inputs, hin, List.tail_cons], rfl⟩
  · cases hst.symm.trans (step_nil hin)
    rfl

/-- Settles O12. -/
theorem answersAreWellShaped : Obligations.AnswersAreWellShaped := by
  intro i s t r he hr
  obtain ⟨st, d, u, hu, hres, hd⟩ := exec_responds i s
  cases he.symm.trans hu
  rw [respond_responses, hres] at hr
  obtain rfl : responseWord st d = r := by simpa using hr
  rw [statusField_responseWord, zeroField_responseWord, dataField_responseWord]
  exact ⟨status_code_le st, rfl, fun hne => hd fun hok => hne (congrArg Status.code hok)⟩

/-- Settles O59: each operand's byte stands in its word as the formula's shift of the number. -/
theorem assemblyFollowsTheEncodingFormulas : Obligations.AssemblyFollowsTheEncodingFormulas := by
  refine ⟨by decide, fun a c1 c2 d1 d2 ha hc1 hc2 hd1 hd2 => ?_,
    fun b0 b1 b2 b3 b4 b5 b6 h0 h1 h2 h3 h4 h5 h6 => ?_, fun b hb => ?_⟩
  · have hall : ∀ n ∈ [a, c1, c2, d1, d2], n ≤ 255 := by simp [*]
    exact ⟨_, _, assemble_of_le .encode hall, assemble_of_le .txStart hall,
      or_bodyBits_ofNat_toNat _ ha hc1 hc2 hd1 hd2, or_bodyBits_ofNat_toNat _ ha hc1 hc2 hd1 hd2⟩
  · have hall : ∀ n ∈ [b0, b1, b2, b3, b4, b5, b6], n ≤ 255 := by simp [*]
    refine ⟨_, assemble_of_le .decode hall, ?_⟩
    simp only [encode, BitVec.toNat_or _ (shifted _ _), or_bodyBits_ofNat_toNat _ h1 h2 h3 h4 h5,
      shifted_ofNat_toNat h0 (by decide : 48 ≤ 56), shifted_ofNat_toNat h6 (by decide : 0 ≤ 56)]
    rfl
  · refine ⟨_, assemble_of_le .rxByte (by simp [hb]), ?_⟩
    simp only [encode, BitVec.toNat_or, shifted_ofNat_toNat hb (by decide : 0 ≤ 56)]
    rfl

/-- Settles O4. -/
theorem decodingTestsReservedThenOperation : Obligations.DecodingTestsReservedThenOperation :=
  fun w => ⟨decode_reserved w, fun hr =>
    ⟨decode_nop w hr,
      fun ho => ⟨_, decode_encodeFrame w hr ho⟩,
      fun ho => ⟨_, decode_decodeFrame w hr ho⟩,
      fun ho => ⟨_, decode_txStart w hr ho⟩,
      decode_txNext w hr,
      fun ho => ⟨_, decode_rxByte w hr ho⟩,
      decode_rxClear w hr,
      decode_reservedOp w⟩⟩

/-- Settles O7. -/
theorem writtenOutWordsDecode : Obligations.WrittenOutWordsDecode := by
  unfold Obligations.WrittenOutWordsDecode
  decide

end Sys2Proof.Machine

namespace Sys2Proof.Machine

/-! ## Sums of bytes (00_scope.md R17, 40_frame_ops.md R82, R83) -/

/-- R82 from any start: accumulating byte by byte adds the whole sum. -/
theorem foldl_accumulate (xs : List Byte) :
    ∀ acc : Byte, xs.foldl accumulate acc = acc + BitVec.ofNat 8 (xs.map BitVec.toNat).sum := by
  induction xs with
  | nil => exact fun acc => (add_zero acc).symm
  | cons x xs ih =>
    intro acc
    rw [List.foldl_cons, ih, accumulate_eq_add, List.map_cons, List.sum_cons, BitVec.ofNat_add,
      BitVec.ofNat_toNat, BitVec.setWidth_eq, BitVec.add_assoc]

theorem checksum_toNat (x : Body) :
    (checksum x).toNat =
      (x.unitAddress.toNat + x.command1.toNat + x.command2.toNat + x.data1.toNat + x.data2.toNat)
        % 256 :=
  BitVec.toNat_ofNat _ 8

/-- A byte is the checksum when it is the sum mod 256 (00_scope.md R17). -/
theorem checksum_eq_iff (x : Body) (b : Byte) :
    checksum x = b ↔
      (x.unitAddress.toNat + x.command1.toNat + x.command2.toNat + x.data1.toNat + x.data2.toNat)
        % 256 = b.toNat := by
  rw [← checksum_toNat, BitVec.toNat_inj]

/-- A response shows in the state it leaves. -/
theorem respond_injective {a b : Status} {d e : Data} {s : State}
    (h : respond a d s = respond b e s) : a = b ∧ d = e := by
  have hres := congrArg State.responses h
  exact responseWord_injective a b d e (by simpa using hres)

/-! ## A frame and the word that carries it (20_memory.md R44, 30_encoding.md R62) -/

/-- A response with status OK is its data alone. -/
theorem responseWord_ok (d : Data) : responseWord .ok d = d.setWidth 64 := by
  have hzero : Status.ok.code ++ 0#4 = 0#8 := rfl
  rw [responseWord, hzero]
  exact (BitVec.setWidth_eq_append (by decide)).symm

/-- `DATA` stands below the header of a command word. -/
theorem header_setWidth (d : Data) :
    opField (d.setWidth 64) = 0 ∧ rsvField (d.setWidth 64) = 0 := by
  have hd : d.toNat < 2 ^ 56 := d.isLt
  have hw : (d.setWidth 64).toNat = d.toNat :=
    BitVec.toNat_setWidth_of_le (by decide)
  constructor <;> apply BitVec.eq_of_toNat_eq
  · rw [opField_toNat, hw]
    exact Nat.div_eq_of_lt (by omega)
  · rw [rsvField_toNat, hw, Nat.div_eq_of_lt hd]
    rfl

/-- `Dk` of a response and `Bk` of a command are the same bits, so a frame's data has the frame's
bytes as operands. -/
theorem operandByte_frameData (f : Frame) (k : Fin 7) :
    operandByte ((frameData f).setWidth 64) k = frameByte f k := by
  rw [← responseWord_ok]
  exact dataByte_frameData .ok f k

/-- DECODE's header over a frame's data is the command DECODE of that frame (R84). -/
theorem decode_header_or_frameData (f : Frame) :
    decode (0x4000000000000000#64 ||| (frameData f).setWidth 64) = .decodeFrame f := by
  obtain ⟨ho, hr⟩ := header_setWidth (frameData f)
  have hb : ∀ k, operandByte 0x4000000000000000#64 k = 0#8 := by decide
  have hf : frameOperands (0x4000000000000000#64 ||| (frameData f).setWidth 64) = f := by
    simp only [frameOperands, bodyOperands, operandByte_or, hb, operandByte_frameData,
      BitVec.zero_or]
    rfl
  rw [decode_decodeFrame _ (by rw [rsvField_or, hr]; decide) (by rw [opField_or, ho]; decide), hf]

/-- The operand bytes of DECODE, as data, are the word's low 56 bits. -/
theorem frameData_frameOperands (w : CommandWord) :
    frameData (frameOperands w) = w.extractLsb' 0 56 := by
  simp only [frameData, frameOperands, bodyOperands, operandByte]
  iterate 6 rw [BitVec.extractLsb'_append_extractLsb'_eq_extractLsb' (by rfl)]
  rfl

/-! ## What DECODE answers (40_frame_ops.md R81) -/

/-- DECODE drives one response word, whose fields give the verdict on the frame. -/
theorem decodeFrame_verdict (f : Frame) (s : State) :
    ∃ r, exec (.decodeFrame f) s = .next { s with responses := s.responses ++ [r] } ∧
      (checksum f.body ≠ f.checksum → statusField r = 2#4 ∧ dataField r = 0) ∧
      (checksum f.body = f.checksum → s.config.syncCheck = true → f.sync ≠ s.sync →
        statusField r = 3#4 ∧ dataField r = 0) ∧
      (checksum f.body = f.checksum → (s.config.syncCheck = false ∨ f.sync = s.sync) →
        statusField r = 0#4 ∧ dataField r = frameData f) := by
  obtain ⟨st, d, h, -⟩ := answerFrame_frame (checksum f.body) f s
  have hfields {st' : Status} {d' : Data}
      (h' : answerFrame (checksum f.body) f s = respond st' d' s) :
      statusField (responseWord st d) = st'.code ∧ dataField (responseWord st d) = d' := by
    obtain ⟨rfl, rfl⟩ := respond_injective (h.symm.trans h')
    exact ⟨statusField_responseWord st d, dataField_responseWord st d⟩
  exact ⟨responseWord st d, congrArg _ h, fun hc => hfields (answerFrame_of_checksum_ne hc s),
    fun hc hchk hs => hfields (answerFrame_of_sync_ne hc hchk hs),
    fun hc hs => hfields (answerFrame_of_good hc hs)⟩

/-- A command that drives one response answers that response's code and no other. -/
theorem answersCode_iff {i : Instr} {s : State} {st : Status} {d : Data}
    (h : exec i s = .next (respond st d s)) (c : BitVec 4) : AnswersCode i s c ↔ st.code = c := by
  constructor
  · rintro ⟨t, r, he, hr, hc⟩
    cases he.symm.trans h
    obtain rfl : responseWord st d = r := by simpa using hr
    rw [← hc, statusField_responseWord]
  · rintro rfl
    exact ⟨_, _, h, respond_responses st d s, statusField_responseWord st d⟩

theorem decodeFrame_checksumMismatch {f : Frame} {s : State} (hc : checksum f.body ≠ f.checksum) :
    AnswersCode (.decodeFrame f) s 2#4 := by
  obtain ⟨r, hexec, hbad, -⟩ := decodeFrame_verdict f s
  exact ⟨_, r, hexec, rfl, (hbad hc).1⟩

theorem decodeFrame_syncMismatch {f : Frame} {s : State} (hc : checksum f.body = f.checksum)
    (hchk : s.config.syncCheck = true) (hs : f.sync ≠ s.sync) :
    AnswersCode (.decodeFrame f) s 3#4 := by
  obtain ⟨r, hexec, -, hforeign, -⟩ := decodeFrame_verdict f s
  exact ⟨_, r, hexec, rfl, (hforeign hc hchk hs).1⟩

/-- DECODE accepts exactly the frames whose checksum and, when it is checked, sync byte hold. -/
theorem decodeFrame_ok_iff (f : Frame) (s : State) :
    AnswersCode (.decodeFrame f) s 0#4 ↔
      checksum f.body = f.checksum ∧ (s.config.syncCheck = false ∨ f.sync = s.sync) := by
  obtain ⟨hc, h⟩ | ⟨hc, hchk, hs, h⟩ | ⟨hc, hs, h⟩ := answerFrame_cases (checksum f.body) f s <;>
    rw [answersCode_iff ((exec_decodeFrame f s).trans (congrArg _ h))]
  · exact iff_of_false (by decide) fun hok => hc hok.1
  · exact iff_of_false (by decide) fun hok => by simp [hchk, hs] at hok
  · exact iff_of_true rfl ⟨hc, hs⟩

/-! ## A frame with one byte replaced (40_frame_ops.md R86) -/

theorem frameByte_setFrameByte (f : Frame) (j k : Fin 7) (b : Byte) :
    frameByte (setFrameByte f j b) k = if j = k then b else frameByte f k := by
  fin_cases j <;> fin_cases k <;> rfl

theorem frameByte_setFrameByte_of_ne (f : Frame) {j k : Fin 7} (h : j ≠ k) (b : Byte) :
    frameByte (setFrameByte f j b) k = frameByte f k := by
  rw [frameByte_setFrameByte, if_neg h]

theorem setFrameByte_frameByte_self (f : Frame) (k : Fin 7) :
    setFrameByte f k (frameByte f k) = f := by
  fin_cases k <;> rfl

/-- A body byte is an addend of the checksum: replacing it moves the sum by the difference. -/
theorem checksum_setFrameByte (f : Frame) {k : Fin 7} (h0 : k ≠ 0) (h6 : k ≠ 6) (b : Byte) :
    checksum (setFrameByte f k b).body = checksum f.body + (b - frameByte f k) := by
  simp only [checksum_eq_add]
  fin_cases k
  · exact absurd rfl h0
  iterate 5 simp only [setFrameByte, frameByte]; ring
  · exact absurd rfl h6

/-- Any other byte than the one that stands there breaks the checksum. -/
theorem checksum_setFrameByte_ne {f : Frame} (hc : checksum f.body = f.checksum) {k : Fin 7}
    (h0 : k ≠ 0) {b : Byte} (hb : b ≠ frameByte f k) :
    checksum (setFrameByte f k b).body ≠ (setFrameByte f k b).checksum := by
  by_cases h6 : k = 6
  · subst h6
    exact fun h => hb (h.symm.trans hc)
  · have hkeep : (setFrameByte f k b).checksum = f.checksum := frameByte_setFrameByte_of_ne f h6 b
    rw [checksum_setFrameByte f h0 h6, hc, hkeep]
    exact fun h => hb (sub_eq_zero.1 (add_eq_left.1 h))

/-- Two body bytes replaced by others of the same sum are not noticed. -/
theorem decodeFrame_ok_of_same_sum {f : Frame} {s : State}
    (h : AnswersCode (.decodeFrame f) s 0#4) {j k : Fin 7} (hjk : j ≠ k) (hj0 : j ≠ 0) (hk0 : k ≠ 0)
    (hj6 : j ≠ 6) (hk6 : k ≠ 6) {a b : Byte} (hab : a + b = frameByte f j + frameByte f k) :
    AnswersCode (.decodeFrame (setFrameByte (setFrameByte f j a) k b)) s 0#4 := by
  have hsync : (setFrameByte (setFrameByte f j a) k b).sync = f.sync :=
    (frameByte_setFrameByte_of_ne _ hk0 b).trans (frameByte_setFrameByte_of_ne f hj0 a)
  have hcs : (setFrameByte (setFrameByte f j a) k b).checksum = f.checksum :=
    (frameByte_setFrameByte_of_ne _ hk6 b).trans (frameByte_setFrameByte_of_ne f hj6 a)
  have hsum : checksum (setFrameByte (setFrameByte f j a) k b).body = checksum f.body := by
    rw [checksum_setFrameByte _ hk0 hk6, checksum_setFrameByte f hj0 hj6,
      frameByte_setFrameByte_of_ne f hjk]
    linear_combination hab
  rw [decodeFrame_ok_iff] at h ⊢
  rwa [hsync, hcs, hsum]

/-! ## The statements about checksums and the frame operations (40_frame_ops.md) -/

/-- Settles O20: the induction starts the accumulator anywhere. -/
theorem accumulatingEqualsTheWholeSum : Obligations.AccumulatingEqualsTheWholeSum := by
  have hall : ∀ xs : List Byte, xs.foldl accumulate 0 = BitVec.ofNat 8 (xs.map BitVec.toNat).sum :=
    fun xs => (foldl_accumulate xs 0).trans (zero_add _)
  refine ⟨hall, fun a c1 c2 d1 d2 => ?_⟩
  rw [hall, checksum]
  simp [add_assoc]

/-- Settles O21: five bytes are at most 255 each, and the checksum is their sum. -/
theorem checksumAtTheBoundarySums : Obligations.ChecksumAtTheBoundarySums := by
  intro x n hn
  have hcs : checksum x = BitVec.ofNat 8 n := congrArg _ hn
  refine ⟨by omega, ?_, ?_, ?_, ?_, ?_, ?_⟩ <;> rintro rfl <;> exact hcs

/-- Settles O34: OP 001 runs ENCODE on the word's body operands. -/
theorem encodeWordAnswersTheFrame : Obligations.EncodeWordAnswersTheFrame := by
  intro s w rest hin hop hrsv
  have hstep : step s = .next (respond .ok (frameData (encodedFrame s.sync (bodyOperands w)))
      { s with inputs := rest }) := by
    rw [step_command hin, takeInput_eq hin, decode_encodeFrame w hrsv hop, exec_encodeFrame]
  have hbyte := dataByte_frameData .ok (encodedFrame s.sync (bodyOperands w))
  refine ⟨_, hstep, statusField_responseWord _ _, hbyte 0, hbyte 1, hbyte 2, hbyte 3, hbyte 4,
    hbyte 5, ?_⟩
  rw [hbyte 6]
  exact checksum_toNat (bodyOperands w)

/-- Settles O35: OP 010 runs DECODE on the word's frame operands. -/
theorem decodeWordChecksTheFrame : Obligations.DecodeWordChecksTheFrame := by
  intro s w rest hin hop hrsv
  obtain ⟨r, hexec, hbad, hforeign, hgood⟩ :=
    decodeFrame_verdict (frameOperands w) { s with inputs := rest }
  have hstep : step s = .next { s with inputs := rest, responses := s.responses ++ [r] } := by
    rw [step_command hin, takeInput_eq hin, decode_decodeFrame w hrsv hop, hexec]
  refine ⟨r, hstep, ?_⟩
  rintro n rfl
  rw [← frameData_frameOperands w]
  have hsum := checksum_eq_iff (bodyOperands w) (operandByte w 6)
  exact ⟨fun hne => hbad (mt hsum.1 hne), fun heq => hforeign (hsum.2 heq),
    fun heq => hgood (hsum.2 heq)⟩

/-- Settles O40: the frame ENCODE answers has its own checksum and the block's sync byte. -/
theorem decodeOfEncodedDataIsOk : Obligations.DecodeOfEncodedDataIsOk := by
  intro x s
  have hbyte := dataByte_frameData .ok (encodedFrame s.sync x)
  refine ⟨_, responseWord .ok (frameData (encodedFrame s.sync x)), _, exec_encodeFrame x s,
    respond_responses _ _ s, ?_, respond_responses _ _ _, statusField_responseWord _ _,
    hbyte 1, hbyte 2, hbyte 3, hbyte 4, hbyte 5⟩
  rw [dataField_responseWord, decode_header_or_frameData]
  exact decodeCompletes (encodedFrame s.sync x) _ rfl (.inr rfl)

/-- Settles O41: the one byte 6 is the checksum, and a checked byte 0 is `SYNC`. -/
theorem exactlyOneChecksumBytePasses : Obligations.ExactlyOneChecksumBytePasses := by
  intro s x
  simp only [decodeFrame_ok_iff]
  refine ⟨fun hoff b0 => ⟨checksum x, ⟨rfl, .inl hoff⟩, fun b6 h => h.1.symm⟩,
    fun hchk => ⟨(s.sync, checksum x), ⟨rfl, .inr rfl⟩, ?_⟩⟩
  rintro ⟨b0, b6⟩ ⟨hc, hs⟩
  exact Prod.ext (hs.resolve_left (by simp [hchk])) hc.symm

/-- Settles O42: DECODE sees the sum of the body bytes against byte 6, and nothing finer. -/
theorem whatTheChecksumDetects : Obligations.WhatTheChecksumDetects := by
  intro s f hok
  obtain ⟨hc, -⟩ := (decodeFrame_ok_iff f s).1 hok
  refine ⟨fun k b h0 hb => decodeFrame_checksumMismatch (checksum_setFrameByte_ne hc h0 hb),
    fun b hb => ⟨fun hoff => ?unchecked, fun hchk => ?checked⟩,
    fun j k d hjk hj0 hk0 hj6 hk6 => ?shifted, fun j k hj0 hk0 hj6 hk6 => ?swapped⟩
  case unchecked => exact (decodeFrame_ok_iff _ s).2 ⟨hc, .inl hoff⟩
  case checked =>
    have hs : f.sync = s.sync :=
      ((decodeFrame_ok_iff f s).1 hok).2.resolve_left (by simp [hchk])
    exact decodeFrame_syncMismatch hc hchk (hs ▸ hb)
  case shifted => exact decodeFrame_ok_of_same_sum hok hjk hj0 hk0 hj6 hk6 (by ring)
  case swapped =>
    by_cases hjk : j = k
    · subst hjk
      rwa [setFrameByte_frameByte_self, setFrameByte_frameByte_self]
    · exact decodeFrame_ok_of_same_sum hok hjk hj0 hk0 hj6 hk6 (add_comm _ _)

end Sys2Proof.Machine

namespace Sys2Proof.Machine

/-! ## Runs and what they answer (20_memory.md R53, 30_encoding.md R59) -/

/-- A run withdraws no response already driven. -/
theorem responses_prefix_of_runCommands {is : List Instr} :
    ∀ {s t : State}, runCommands is s = .next t → s.responses <+: t.responses := by
  induction is with
  | nil =>
    intro s t h
    cases (runCommands_nil s).symm.trans h
    exact List.prefix_rfl
  | cons i is ih =>
    intro s t h
    obtain ⟨st, d, u, he, hres, -⟩ := exec_responds i s
    rw [runCommands_cons i is s _ he] at h
    rw [← hres]
    exact (List.prefix_append _ _).trans (ih h)

/-- A run goes on from its first command, whose answer is the first new response word. -/
theorem runCommands_cons_answersTo {i : Instr} {is : List Instr} {s u t : State} {r : ResponseWord}
    (he : exec i s = .next u) (hr : u.responses = s.responses ++ [r])
    (hrun : runCommands is u = .next t) :
    runCommands (i :: is) s = .next t ∧ ∀ p : Instr → Bool,
      answersTo p (i :: is) s t =
        if p i = true then r :: answersTo p is u t else answersTo p is u t := by
  refine ⟨(runCommands_cons i is s u he).trans hrun, fun p => ?_⟩
  obtain ⟨rs, hrs⟩ := responses_prefix_of_runCommands hrun
  have hnew : t.responses.drop s.responses.length = r :: rs := by simp [← hrs, hr]
  have hrest : t.responses.drop u.responses.length = rs := by simp [← hrs]
  simp only [answersTo, hnew, hrest, List.zip_cons_cons, List.filter_cons]
  split <;> rfl

/-! ## Bytes of a frame in flight (41_serializer.md R101 to R103) -/

/-- `DATA` of a one-byte answer is the byte. -/
theorem byteData_toNat (b : Byte) : (byteData b).toNat = b.toNat :=
  BitVec.toNat_setWidth_of_le (by decide)

/-- After byte 5 the accumulator holds the checksum of the body in the buffer. -/
theorem bodySum_six (buf : FrameBuf) :
    bodySum buf 6 = checksum ⟨buf[1], buf[2], buf[3], buf[4], buf[5]⟩ := by
  simp [bodySum_succ, accumulate_eq_add, checksum_eq_add]

theorem txAdvance_idx_of_le {c : TxChannel} (h : c.idx.toNat ≤ 5) :
    (txAdvance c).idx.toNat = c.idx.toNat + 1 := by
  rw [txAdvance_of_le c h]
  exact idx_succ_toNat c.idx h

theorem txAdvance_active_of_le {c : TxChannel} (h : c.idx.toNat ≤ 5) :
    (txAdvance c).active = c.active := by
  rw [txAdvance_of_le c h]

/-! ## Commands while a frame is in flight (41_serializer.md R100, R101, R105) -/

theorem isTxStart_iff (i : Instr) : isTxStart i = true ↔ ∃ x, i = .txStart x := by
  cases i <;> simp [isTxStart]

theorem isTxNext_iff (i : Instr) : isTxNext i = true ↔ i = .txNext := by
  cases i <;> simp [isTxNext]

/-- Only the TX commands write the serializer. -/
theorem exec_keeps_tx {i : Instr} {s t : State} (hstart : ¬ isTxStart i = true)
    (hnext : ¬ isTxNext i = true) (he : exec i s = .next t) : t.tx = s.tx := by
  rw [isTxStart_iff] at hstart
  rw [isTxNext_iff] at hnext
  obtain ⟨st, d, e⟩ | ⟨x, rfl, -⟩ | ⟨rfl, -⟩ | ⟨b, -, -, e⟩ | ⟨st, d, -, e⟩ := exec_cases i s
  case inr.inl => exact absurd ⟨x, rfl⟩ hstart
  case inr.inr.inl => exact absurd rfl hnext
  all_goals
    cases he.symm.trans e
    rfl

/-- With a frame in flight TX_NEXT emits its next byte, and every other command leaves the
serializer alone, TX_START with the answer TX_BUSY. -/
theorem exec_in_flight (i : Instr) {s : State} (ha : s.tx.active = true) :
    ∃ r t, exec i s = .next t ∧ t.responses = s.responses ++ [r] ∧
      ((i = .txNext ∧ r = responseWord .ok (byteData (txByte s.tx)) ∧ t.tx = txAdvance s.tx) ∨
        (isTxNext i = false ∧ (isTxStart i = true → r = responseWord .txBusy 0) ∧
          t.tx = s.tx)) := by
  by_cases hnext : isTxNext i = true
  · obtain rfl := (isTxNext_iff i).1 hnext
    exact ⟨_, _, exec_txNext_active ha rfl rfl, respond_responses _ _ _, .inl ⟨rfl, rfl, rfl⟩⟩
  · by_cases hstart : isTxStart i = true
    · obtain ⟨x, rfl⟩ := (isTxStart_iff i).1 hstart
      exact ⟨_, _, exec_txStart_busy x ha, raise_responses _ _, .inr ⟨rfl, fun _ => rfl, rfl⟩⟩
    · obtain ⟨st, d, u, he, hres, -⟩ := exec_responds i s
      exact ⟨_, _, he, by rw [respond_responses, hres],
        .inr ⟨Bool.eq_false_of_not_eq_true hnext, fun h => absurd h hstart,
          exec_keeps_tx hstart hnext he⟩⟩

/-! ## Emitting a whole frame, whatever is interleaved (41_serializer.md R104) -/

/-- The frame of body `x` is in flight with frame bytes 0 to `n - 1` emitted. -/
structure Emitting (sync : Byte) (x : Body) (n : Nat) (c : TxChannel) : Prop where
  inv : TxInv sync c
  active : c.active = true
  buf : c.buf = bufOf sync x
  idx : c.idx.toNat = n

theorem emitting_txLoad (sync : Byte) (x : Body) : Emitting sync x 0 (txLoad sync x) :=
  ⟨txInv_txLoad sync x, txLoad_active sync x, txLoad_buf sync x, rfl⟩

section
variable {sync : Byte} {x : Body} {n : Nat} {c : TxChannel} (h : Emitting sync x n c)
include h

theorem Emitting.le_six : n ≤ 6 := h.idx ▸ h.inv.idx h.active

/-- The byte that comes next is the one ENCODE puts there: the buffer's, or the checksum. -/
theorem Emitting.txByte_eq (hn : n < 7) :
    txByte c = frameByte (encodedFrame sync x) ⟨n, hn⟩ := by
  by_cases h5 : n ≤ 5
  · rw [txByte_at c ⟨n, by omega⟩ h.idx, h.buf]
    interval_cases n <;> rfl
  · obtain rfl : n = 6 := by omega
    rw [txByte_of_six c (BitVec.eq_of_toNat_eq h.idx), h.inv.acc h.active, h.idx, bodySum_six, h.buf]
    rfl

theorem Emitting.txAdvance (hn : n < 6) : Emitting sync x (n + 1) (txAdvance c) := by
  have hle : c.idx.toNat ≤ 5 := by
    rw [h.idx]
    omega
  exact ⟨txInv_txAdvance h.inv h.active, (txAdvance_active_of_le hle).trans h.active,
    (txAdvance_buf c).trans h.buf, (txAdvance_idx_of_le hle).trans (congrArg (· + 1) h.idx)⟩

end

/-- What seven TX_NEXT answer for a frame: its bytes in wire order. -/
def emissionAnswers (f : Frame) : List ResponseWord :=
  (List.finRange 7).map fun k => responseWord .ok (byteData (frameByte f k))

theorem emissionAnswers_drop (f : Frame) {n : Nat} (hn : n < 7) :
    (emissionAnswers f).drop n =
      responseWord .ok (byteData (frameByte f ⟨n, hn⟩)) :: (emissionAnswers f).drop (n + 1) := by
  rw [List.drop_eq_getElem_cons (by simpa [emissionAnswers] using hn)]
  simp [emissionAnswers]

/-- From byte `n` on, the TX_NEXT up to the seventh emit the rest of the frame, however many other
commands stand between them. -/
theorem runCommands_emitting {sync : Byte} {x : Body} (is : List Instr) :
    ∀ {n : Nat} {s : State}, Emitting sync x n s.tx → n + is.countP isTxNext = 6 →
      ∃ t, runCommands (is ++ [.txNext]) s = .next t ∧
        answersTo isTxStart (is ++ [.txNext]) s t =
          List.replicate (is.countP isTxStart) (responseWord .txBusy 0) ∧
        answersTo isTxNext (is ++ [.txNext]) s t =
          (emissionAnswers (encodedFrame sync x)).drop n ∧
        t.tx.active = false ∧ t.tx.idx = 0 ∧ t.tx.acc = 0 := by
  induction is with
  | nil =>
    intro n s h hn
    obtain rfl : n = 6 := hn
    have he := exec_txNext_active h.active (h.txByte_eq (by decide))
      (txAdvance_of_six s.tx (BitVec.eq_of_toNat_eq h.idx))
    obtain ⟨hall, hans⟩ :=
      runCommands_cons_answersTo he (respond_responses _ _ _) (runCommands_nil _)
    exact ⟨_, hall, hans isTxStart, hans isTxNext, rfl, rfl, rfl⟩
  | cons i is ih =>
    intro n s h hn
    obtain ⟨r, u, he, hr, ⟨rfl, rfl, htx⟩ | ⟨hnext, hbusy, htx⟩⟩ := exec_in_flight i h.active
    · rw [List.countP_cons_of_pos rfl] at hn
      obtain ⟨t, hrun, hstarts, hnexts, hidle⟩ :=
        ih (n := n + 1) (htx ▸ h.txAdvance (by omega)) (by omega)
      obtain ⟨hall, hans⟩ := runCommands_cons_answersTo he hr hrun
      refine ⟨t, hall, ?_, ?_, hidle⟩
      · exact (hans isTxStart).trans hstarts
      · rw [emissionAnswers_drop _ (by omega), ← hnexts, ← h.txByte_eq]
        exact hans isTxNext
    · rw [List.countP_cons_of_neg (by simp [hnext])] at hn
      obtain ⟨t, hrun, hstarts, hnexts, hidle⟩ := ih (htx ▸ h) hn
      obtain ⟨hall, hans⟩ := runCommands_cons_answersTo he hr hrun
      refine ⟨t, hall, ?_, ?_, hidle⟩
      · refine (hans isTxStart).trans ?_
        rw [hstarts, List.countP_cons]
        split
        case isTrue hstart => rw [hbusy hstart, ← List.replicate_succ]
        case isFalse => rfl
      · refine (hans isTxNext).trans ?_
        rw [if_neg (by simp [hnext]), hnexts]

/-! ## The statements about the serializer (41_serializer.md) -/

/-- Settles O46: TX_START loads the frame ENCODE builds, and every list of commands emits the
rest of a frame in flight. -/
theorem serializerEqualsEncode : Obligations.SerializerEqualsEncode := by
  intro s x is hidle hcount
  obtain ⟨u, he, hr, hload⟩ : ∃ u, exec (.txStart x) s = .next u ∧
      u.responses = s.responses ++ [responseWord .ok 0] ∧ Emitting s.sync x 0 u.tx :=
    ⟨_, exec_txStart_idle x hidle, respond_responses _ _ _, emitting_txLoad s.sync x⟩
  obtain ⟨t, hrun, hstarts, hnexts, hend⟩ :=
    runCommands_emitting is hload ((Nat.zero_add _).trans hcount)
  obtain ⟨hall, hans⟩ := runCommands_cons_answersTo he hr hrun
  refine ⟨_, _, t, exec_encodeFrame x s, respond_responses _ _ _, hall, ?_, ?_, hend⟩
  · rw [← hstarts]
    exact hans isTxStart
  · simp only [dataByte_frameData]
    exact (hans isTxNext).trans hnexts

/-- Settles O36: OP 011 runs TX_START on the word's body operands. -/
theorem txStartWordLoadsTheBody : Obligations.TxStartWordLoadsTheBody := by
  intro s w rest hin hop hrsv
  have hstep : step s = exec (.txStart (bodyOperands w)) { s with inputs := rest } := by
    rw [step_command hin, takeInput_eq hin, decode_txStart w hrsv hop]
  cases ha : s.tx.active with
  | true =>
    exact ⟨responseWord .txBusy 0,
      fun _ => ⟨hstep.trans (exec_txStart_busy _ ha), statusField_responseWord _ _,
        dataField_responseWord _ _⟩, nofun⟩
  | false =>
    exact ⟨responseWord .ok 0, nofun,
      fun _ => ⟨hstep.trans (exec_txStart_idle _ ha), statusField_responseWord _ _,
        dataField_responseWord _ _⟩⟩

/-- Settles O37, idle, then index by index. -/
theorem txNextWordEmitsTheNextByte : Obligations.TxNextWordEmitsTheNextByte := by
  intro s w rest hin hop hrsv
  have hstep : step s = exec .txNext { s with inputs := rest } := by
    rw [step_command hin, takeInput_eq hin, decode_txNext w hrsv hop]
  cases ha : s.tx.active with
  | false =>
    exact ⟨s.tx, responseWord .txIdle 0, hstep.trans (exec_txNext_idle ha),
      fun _ => ⟨rfl, statusField_responseWord _ _, dataField_responseWord _ _⟩, nofun⟩
  | true =>
    refine ⟨txAdvance s.tx, responseWord .ok (byteData (txByte s.tx)),
      hstep.trans (exec_txNext_active ha rfl rfl), nofun,
      fun _ => ⟨statusField_responseWord _ _, ?_, fun k hk => ?_, fun h6 => ?_⟩⟩
    · rw [dataField_responseWord, byteData_toNat]
      exact (txByte s.tx).isLt
    · have hle : s.tx.idx.toNat ≤ 5 := by omega
      refine ⟨(dataByte_byteData _ _).trans (txByte_at s.tx k hk), txAdvance_buf _,
        (txAdvance_active_of_le hle).trans ha, (txAdvance_idx_of_le hle).trans (by rw [hk]), ?_⟩
      rw [txAdvance_of_le _ hle, txByte_at s.tx k hk, hk, apply_ite BitVec.toNat]
      simp [accumulate]
    · have hidx : s.tx.idx = 6 := BitVec.eq_of_toNat_eq h6
      rw [dataByte_byteData, txByte_of_six _ hidx, txAdvance_of_six _ hidx]
      exact ⟨rfl, rfl, rfl, rfl, rfl⟩

/-- Settles O44: the channel's move keeps R26, whose accumulator line is the schedule. -/
theorem emissionSchedule : Obligations.EmissionSchedule := by
  intro s hinv ha
  obtain ⟨htx, -⟩ := (stateInv_iff s).1 hinv
  refine ⟨_, exec_txNext_active ha rfl rfl, fun k hk => ?_, fun h6 => ?_⟩
  · have hle : s.tx.idx.toNat ≤ 5 := by omega
    have hactive := (txAdvance_active_of_le hle).trans ha
    have hidx : (txAdvance s.tx).idx.toNat = k.val + 1 :=
      (txAdvance_idx_of_le hle).trans (by rw [hk])
    refine ⟨by rw [respond_responses, txByte_at s.tx k hk], ?_, hidx, hactive, txAdvance_buf _⟩
    have hacc := (txInv_txAdvance htx ha).acc hactive
    rwa [hidx, txAdvance_buf] at hacc
  · have hidx : s.tx.idx = 6 := BitVec.eq_of_toNat_eq h6
    have hacc : s.tx.acc = bodySum s.tx.buf 6 := h6 ▸ htx.acc ha
    rw [respond_responses, respond_tx, txByte_of_six _ hidx, hacc, bodySum_six,
      txAdvance_of_six _ hidx]
    exact ⟨rfl, rfl, rfl, rfl⟩

/-- Settles O48, by the three things a step can be; a command keeps the frame unless it is the
TX_NEXT at index 6. -/
theorem onlyResetAbortsAFrame : Obligations.OnlyResetAbortsAFrame := by
  intro s t hinv ha hst
  obtain ⟨-, rfl⟩ | ⟨w, rest, hin, he⟩ | ⟨rest, hin, -⟩ := step_cases s t hst
  · exact .inl ⟨ha, rfl⟩
  · obtain ⟨r, u, hu, -, hcase⟩ := exec_in_flight (decode w) (s := takeInput s) ha
    cases he.symm.trans hu
    obtain ⟨hw, -, htx⟩ | ⟨-, -, htx⟩ := hcase
    · by_cases hle : s.tx.idx.toNat ≤ 5
      · rw [htx]
        exact .inl ⟨(txAdvance_active_of_le hle).trans ha, txAdvance_buf _⟩
      · have hidx := hinv.txIdx ha
        exact .inr (.inr ⟨w, rest, hin, hw, by omega⟩)
    · rw [htx]
      exact .inl ⟨ha, rfl⟩
  · exact .inr (.inl ⟨rest, hin⟩)

end Sys2Proof.Machine

namespace Sys2Proof.Machine

/-! ## Bytes received so far (42_deserializer.md R120, R122) -/

/-- The bytes of the frame under reception, sync byte first. -/
def receivedBytes (c : RxChannel) : List Byte := c.buf.toList.take c.idx.toNat

theorem receivedBytes_length {c : RxChannel} (h : c.idx.toNat ≤ 6) :
    (receivedBytes c).length = c.idx.toNat := by
  simp [receivedBytes, h]

/-- With six bytes received the whole buffer is the frame's. -/
theorem receivedBytes_of_six {c : RxChannel} (h : c.idx.toNat = 6) :
    receivedBytes c = c.buf.toList := by
  rw [receivedBytes, h]
  exact List.take_of_length_le (by simp)

theorem rxStore_buf_at {c : RxChannel} (b : Byte) (k : Fin 6) (h : c.idx.toNat = k.val) :
    (rxStore c b).buf = c.buf.set k.val b := by
  rw [rxStore_of_le c b (by omega)]
  simp only [h]

theorem rxStore_idx_of_le {c : RxChannel} (b : Byte) (h : c.idx.toNat ≤ 5) :
    (rxStore c b).idx.toNat = c.idx.toNat + 1 := by
  rw [rxStore_of_le c b h]
  exact idx_succ_toNat c.idx h

/-- A byte stored joins the bytes received. -/
theorem receivedBytes_rxStore {c : RxChannel} (b : Byte) (h : c.idx.toNat ≤ 5) :
    receivedBytes (rxStore c b) = receivedBytes c ++ [b] := by
  have hlt : c.idx.toNat < (c.buf.toList.set c.idx.toNat b).length := by
    rw [List.length_set, Vector.length_toList]
    omega
  unfold receivedBytes
  rw [rxStore_idx_of_le b h, rxStore_buf_at b ⟨c.idx.toNat, by omega⟩ rfl, Vector.toList_set,
    List.take_succ_eq_append_getElem hlt, List.take_set_of_le (Nat.le_refl _),
    List.getElem_set_self]

/-! ## The checksum byte (42_deserializer.md R120) -/

theorem frameByte_frameOf (buf : FrameBuf) (b : Byte) (k : Fin 6) :
    frameByte (frameOf buf b) k.castSucc = buf[k] := by
  fin_cases k <;> rfl

/-- Past the body bytes RX_BYTE restarts the channel and answers the verdict on the frame. -/
theorem rxByte_verdict (b : Byte) {s : State} (h : ¬ s.rx.idx.toNat ≤ 5) :
    ∃ st d, exec (.rxByte b) s = .next (respond st d { s with rx := rxRestart s.rx }) ∧
      (s.rx.acc ≠ b → st = .checksumMismatch ∧ d = 0) ∧
      (s.rx.acc = b → s.config.syncCheck = true → s.rx.buf[0] ≠ s.sync →
        st = .syncMismatch ∧ d = 0) ∧
      (s.rx.acc = b → (s.config.syncCheck = false ∨ s.rx.buf[0] = s.sync) →
        st = .ok ∧ d = frameData (frameOf s.rx.buf b)) := by
  obtain ⟨st, d, hans, -⟩ :=
    answerFrame_frame s.rx.acc (frameOf s.rx.buf b) { s with rx := rxRestart s.rx }
  exact ⟨st, d, (exec_rxByte_full b h).trans (congrArg _ hans),
    fun hc => respond_injective (hans.symm.trans (answerFrame_of_checksum_ne hc _)),
    fun hc hchk hs => respond_injective (hans.symm.trans (answerFrame_of_sync_ne hc hchk hs)),
    fun hc hs => respond_injective (hans.symm.trans (answerFrame_of_good hc hs))⟩

/-! ## Receiving a whole frame, whatever is interleaved (42_deserializer.md R123) -/

theorem rxOperand_eq_some_iff (i : Instr) (b : Byte) : rxOperand i = some b ↔ i = .rxByte b := by
  cases i <;> simp [rxOperand]

/-- A command that neither hands over a byte nor clears the deserializer leaves it alone, and what a
verdict reads besides it. -/
theorem exec_keeps_rx {i : Instr} (hbyte : rxOperand i = none) (hclear : isRxClear i = false)
    (s : State) :
    ∃ r t, exec i s = .next t ∧ t.responses = s.responses ++ [r] ∧
      t.config = s.config ∧ t.sync = s.sync ∧ t.rx = s.rx := by
  obtain hi | hi | ⟨b, rfl⟩ | rfl := instr_kinds i
  · obtain ⟨st, d, he⟩ := exec_reads_sync hi s
    exact ⟨_, _, he s rfl rfl, respond_responses _ _ _, rfl, rfl, rfl⟩
  · obtain ⟨st, d, c, he⟩ := exec_reads_tx hi s
    exact ⟨_, _, he s rfl rfl, respond_responses _ _ _, rfl, rfl, rfl⟩
  · cases hbyte
  · cases hclear

/-- The frame `f` is being received, and `rest` are those of its bytes 0..5 that are still to come. -/
structure Receiving (f : Frame) (rest : List Byte) (c : RxChannel) : Prop where
  inv : RxInv c
  bytes : receivedBytes c ++ rest = (bufOf f.sync f.body).toList

theorem receiving_of_empty {c : RxChannel} (h : RxInv c) (hi : c.idx = 0) (f : Frame) :
    Receiving f (bufOf f.sync f.body).toList c :=
  ⟨h, by simp [receivedBytes, hi]⟩

section
variable {f : Frame} {rest : List Byte} {c : RxChannel}

/-- The bytes received and the bytes to come are six. -/
theorem Receiving.count (h : Receiving f rest c) : c.idx.toNat + rest.length = 6 := by
  have hlen := congrArg List.length h.bytes
  rwa [List.length_append, receivedBytes_length h.inv.idx, Vector.length_toList] at hlen

theorem Receiving.idx_le {b : Byte} (h : Receiving f (b :: rest) c) : c.idx.toNat ≤ 5 := by
  have hcount := h.count
  rw [List.length_cons] at hcount
  omega

theorem Receiving.rxStore {b : Byte} (h : Receiving f (b :: rest) c) :
    Receiving f rest (rxStore c b) := by
  refine ⟨rxInv_rxStore h.inv b h.idx_le, ?_⟩
  rw [receivedBytes_rxStore b h.idx_le, List.append_assoc]
  exact h.bytes

/-- With no byte to come, the channel holds the sync byte and the body of the frame and the body's
checksum: all that the verdict of DECODE looks at. -/
theorem Receiving.full (h : Receiving f [] c) :
    c.idx = 6 ∧ c.acc = checksum f.body ∧ frameOf c.buf f.checksum = f := by
  have hidx : c.idx.toNat = 6 := h.count
  have hbuf : c.buf = bufOf f.sync f.body := by
    rw [← Vector.toList_inj, ← receivedBytes_of_six hidx, ← h.bytes, List.append_nil]
  refine ⟨BitVec.eq_of_toNat_eq hidx, ?_, ?_⟩
  · rw [h.inv.acc, hidx, bodySum_six, hbuf]
    rfl
  · rw [hbuf]
    rfl

end

/-- From any point of a reception, the RX_BYTE that bring the rest of the frame answer RX_PENDING, and
the checksum byte is answered by the verdict `respond st d` of DECODE, however many other commands
stand between them. -/
theorem runCommands_receiving {f : Frame} {st : Status} {d : Data} (is : List Instr) :
    ∀ {s : State}, Receiving f (is.filterMap rxOperand) s.rx → is.any isRxClear = false →
      (∀ u : State, u.config = s.config → u.sync = s.sync →
        answerFrame (checksum f.body) f u = respond st d u) →
      ∃ t, runCommands (is ++ [.rxByte f.checksum]) s = .next t ∧
        answersTo isRxByte (is ++ [.rxByte f.checksum]) s t =
          List.replicate (is.filterMap rxOperand).length (responseWord .rxPending 0) ++
            [responseWord st d] ∧
        t.rx.idx = 0 ∧ t.rx.acc = 0 := by
  induction is with
  | nil =>
    intro s h _ hverdict
    obtain ⟨hidx, hacc, hframe⟩ := h.full
    have he : exec (.rxByte f.checksum) s =
        .next (respond st d { s with rx := rxRestart s.rx }) := by
      apply exec_rxByte_at_six hidx
      rw [hacc, hframe]
      exact hverdict _ rfl rfl
    obtain ⟨hall, hans⟩ :=
      runCommands_cons_answersTo he (respond_responses _ _ _) (runCommands_nil _)
    exact ⟨_, hall, hans isRxByte, rfl, rfl⟩
  | cons i is ih =>
    intro s h hclear hverdict
    obtain ⟨hi, his⟩ : isRxClear i = false ∧ is.any isRxClear = false := by
      simpa only [List.any_cons, Bool.or_eq_false_iff] using hclear
    cases hop : rxOperand i with
    | some b =>
      obtain rfl := (rxOperand_eq_some_iff i b).1 hop
      rw [List.filterMap_cons_some hop] at h ⊢
      have he := exec_rxByte_pending (b := b) h.idx_le rfl
      obtain ⟨t, hrun, hbytes, hend⟩ :=
        ih (s := respond .rxPending 0 { s with rx := rxStore s.rx b }) h.rxStore his hverdict
      obtain ⟨hall, hans⟩ := runCommands_cons_answersTo he (respond_responses _ _ _) hrun
      refine ⟨t, hall, (hans isRxByte).trans ?_, hend⟩
      rw [hbytes]
      rfl
    | none =>
      rw [List.filterMap_cons_none hop] at h ⊢
      obtain ⟨r, u, he, hr, hcfg, hsync, hrx⟩ := exec_keeps_rx hop hi s
      obtain ⟨t, hrun, hbytes, hend⟩ := ih (s := u) (hrx ▸ h) his (by rwa [hcfg, hsync])
      obtain ⟨hall, hans⟩ := runCommands_cons_answersTo he hr hrun
      refine ⟨t, hall, (hans isRxByte).trans ?_, hend⟩
      rw [if_neg (by simp [isRxByte, hop]), hbytes]

/-! ## The statements about the deserializer (42_deserializer.md) -/

/-- Settles O47: an empty channel is at the start of every frame's reception. -/
theorem deserializerEqualsDecode : Obligations.DeserializerEqualsDecode := by
  intro s f is hinv hidx hclear hbytes
  obtain ⟨-, hrx⟩ := (stateInv_iff s).1 hinv
  obtain ⟨st, d, hverdict⟩ := answerFrame_reads_sync (checksum f.body) f s
  have hreceiving : Receiving f (is.filterMap rxOperand) s.rx :=
    hbytes ▸ receiving_of_empty hrx hidx f
  obtain ⟨t, hrun, hans, hend⟩ := runCommands_receiving is hreceiving hclear hverdict
  rw [hbytes] at hans
  exact ⟨_, _, t, (exec_decodeFrame f s).trans (congrArg _ (hverdict s rfl rfl)),
    respond_responses _ _ _, hrun, hans, hend⟩

/-- Settles O38, before the checksum byte, then at it. -/
theorem rxByteWordTakesTheByte : Obligations.RxByteWordTakesTheByte := by
  intro s w rest hin hop hrsv
  have hstep : step s = exec (.rxByte (w.extractLsb' 0 8)) { s with inputs := rest } := by
    rw [step_command hin, takeInput_eq hin, decode_rxByte w hrsv hop]
    rfl
  by_cases hle : s.rx.idx.toNat ≤ 5
  · refine ⟨rxStore s.rx _, responseWord .rxPending 0, hstep.trans (exec_rxByte_pending hle rfl),
      fun k hk => ⟨statusField_responseWord _ _, dataField_responseWord _ _, ?_⟩,
      fun h6 => by omega⟩
    refine ⟨rxStore_buf_at _ k hk, (rxStore_idx_of_le _ hle).trans (by rw [hk]), ?_⟩
    rw [rxStore_of_le s.rx _ hle, ← hk, apply_ite BitVec.toNat]
    simp [accumulate]
  · obtain ⟨st, d, he, hbad, hforeign, hgood⟩ :=
      rxByte_verdict (w.extractLsb' 0 8) (s := { s with inputs := rest }) hle
    refine ⟨rxRestart s.rx, responseWord st d, hstep.trans he, fun k hk => by omega,
      fun _ => ⟨rxRestart_buf _, rxRestart_idx _, rxRestart_acc _, fun hc => ?_,
        fun hc hchk hs => ?_, fun hc hs => ?_⟩⟩
    · obtain ⟨rfl, rfl⟩ := hbad hc
      exact ⟨statusField_responseWord _ _, dataField_responseWord _ _⟩
    · obtain ⟨rfl, rfl⟩ := hforeign hc hchk hs
      exact ⟨statusField_responseWord _ _, dataField_responseWord _ _⟩
    · obtain ⟨rfl, rfl⟩ := hgood hc hs
      have hbyte := dataByte_frameData .ok (frameOf s.rx.buf (w.extractLsb' 0 8))
      exact ⟨statusField_responseWord _ _,
        fun k => (hbyte k.castSucc).trans (frameByte_frameOf _ _ k), hbyte 6⟩

/-- Settles O45: storing keeps R26, whose accumulator line is the schedule. -/
theorem acceptanceSchedule : Obligations.AcceptanceSchedule := by
  intro s b hinv
  obtain ⟨-, hrx⟩ := (stateInv_iff s).1 hinv
  by_cases hle : s.rx.idx.toNat ≤ 5
  · refine ⟨_, exec_rxByte_pending hle rfl, fun k hk => ?_, fun h6 => by omega⟩
    have hacc := (rxInv_rxStore hrx b hle).acc
    have hidx : (rxStore s.rx b).idx.toNat = k.val + 1 :=
      (rxStore_idx_of_le b hle).trans (by rw [hk])
    rw [hidx] at hacc
    exact ⟨respond_responses _ _ _, rxStore_buf_at b k hk, hacc, hidx⟩
  · obtain ⟨st, d, he, hbad, hforeign, hgood⟩ := rxByte_verdict b hle
    refine ⟨_, he, fun k hk => by omega, fun h6 => ⟨rfl, rfl, st, d, rfl, ?_⟩⟩
    rw [← bodySum_six, ← h6, ← hrx.acc]
    by_cases hc : s.rx.acc = b
    · by_cases hs : s.config.syncCheck = false ∨ s.rx.buf[0] = s.sync
      · obtain ⟨rfl, -⟩ := hgood hc hs
        simp [hc]
      · rw [not_or, Bool.not_eq_false] at hs
        obtain ⟨hchk, hne⟩ := hs
        obtain ⟨rfl, -⟩ := hforeign hc hchk hne
        simp [hc]
    · obtain ⟨rfl, -⟩ := hbad hc
      simp [hc]

/-- Settles O49: whatever its verdict, RX_BYTE at index 6 leaves an empty deserializer and all that other
commands read as it was. -/
theorem aFrameErrorBlocksNothing : Obligations.AFrameErrorBlocksNothing := by
  intro s t b hidx he _
  obtain ⟨st, d, hexec, -⟩ := rxByte_verdict b (s := s) (by simp [hidx])
  cases he.symm.trans hexec
  refine ⟨rfl, rfl, rfl, fun b' => ?_, fun i hi => ?_, fun i hi => ?_⟩
  · exact ⟨_, exec_rxByte_pending (Nat.zero_le 5) (rxStore_at_zero (rxRestart s.rx) b' rfl),
      rfl, rfl, rfl, Vector.getElem_set_self _⟩
  · obtain ⟨st', d', h⟩ := exec_reads_sync hi s
    exact ⟨_, h s rfl rfl, h _ rfl rfl⟩
  · obtain ⟨st', d', c, h⟩ := exec_reads_tx hi s
    exact ⟨c, _, h s rfl rfl, h _ rfl rfl⟩

/-- Settles O39: the decoder's three arms, each with the command's one equation. -/
theorem clearNopAndIllegalWords : Obligations.ClearNopAndIllegalWords := by
  intro s w rest hin
  have hstep : step s = exec (decode w) { s with inputs := rest } := by
    rw [step_command hin, takeInput_eq hin]
  refine ⟨fun hop hrsv =>
      ⟨_, ?_, statusField_responseWord .ok 0, dataField_responseWord .ok 0⟩, fun hop hrsv =>
      ⟨_, ?_, statusField_responseWord .ok 0, dataField_responseWord .ok 0⟩, fun hill =>
      ⟨_, ?_, statusField_responseWord .illegalOp 0, dataField_responseWord .illegalOp 0⟩⟩
  · rw [hstep, decode_rxClear w hrsv hop, exec_rxClear]
    rfl
  · rw [hstep, decode_nop w hrsv hop, exec_nop]
    rfl
  · rw [hstep, hill.elim (decode_reserved w) (decode_reservedOp w), exec_illegal]
    rfl

end Sys2Proof.Machine

namespace Sys2Proof.Machine

/-! ## What a response says of the command that drove it (60_exceptions.md R150, R151) -/

section
variable {i : Instr} {s t u : State} {r : ResponseWord} {st : Status} {d : Data}

/-- When a command ends in a response, that response is the one new word on the port, and what it
leaves is the state responded from with that word added. -/
theorem response_of_exec (h : exec i s = .next (respond st d u)) (hu : u.responses = s.responses)
    (he : exec i s = .next t) (hr : t.responses = s.responses ++ [r]) :
    r = responseWord st d ∧ t = { u with responses := s.responses ++ [r] } := by
  cases he.symm.trans h
  rw [respond_responses, hu] at hr
  obtain rfl : responseWord st d = r := by simpa using hr
  exact ⟨rfl, by rw [respond, hu]⟩

/-- A command answers the code of the response it ends in and no other, whatever channel it moved. -/
theorem answersCode_iff_of_responds (h : exec i s = .next (respond st d u))
    (hu : u.responses = s.responses) (c : BitVec 4) : AnswersCode i s c ↔ st.code = c := by
  constructor
  · rintro ⟨t, r, he, hr, rfl⟩
    rw [(response_of_exec h hu he hr).1, statusField_responseWord]
  · rintro rfl
    exact ⟨_, _, h, by rw [respond_responses, hu], statusField_responseWord st d⟩

end

/-! ## The status of every command's answer (60_exceptions.md R150) -/

/-- The status of `answerFrame`: the checksum is tested before the sync byte. -/
def frameStatus (acc : Byte) (f : Frame) (s : State) : Status :=
  if acc ≠ f.checksum then .checksumMismatch
  else if s.config.syncCheck = true ∧ f.sync ≠ s.sync then .syncMismatch
  else .ok

/-- The status a command answers at a state, which `exec_answerStatus` ties to `exec`. -/
def answerStatus (s : State) : Instr → Status
  | .nop | .encodeFrame _ | .rxClear => .ok
  | .decodeFrame f => frameStatus (checksum f.body) f s
  | .txStart _ => if s.tx.active then .txBusy else .ok
  | .txNext => if s.tx.active then .ok else .txIdle
  | .rxByte b =>
    if s.rx.idx.toNat ≤ 5 then .rxPending else frameStatus s.rx.acc (frameOf s.rx.buf b) s
  | .illegal _ => .illegalOp

/-- The verdict on a frame is driven with the status `frameStatus` says. -/
theorem answerFrame_frameStatus (acc : Byte) (f : Frame) (s : State) :
    ∃ st d, answerFrame acc f s = respond st d s ∧ frameStatus acc f s = st := by
  unfold answerFrame frameStatus
  split_ifs
  · exact ⟨_, 0, rfl, rfl⟩
  · exact ⟨_, 0, rfl, rfl⟩
  · exact ⟨_, _, rfl, rfl⟩

/-- Every command ends in one response, with the status `answerStatus` says. -/
theorem exec_answerStatus (i : Instr) (s : State) :
    ∃ st d u, exec i s = .next (respond st d u) ∧ u.responses = s.responses ∧
      answerStatus s i = st := by
  cases i with
  | nop => exact ⟨_, _, _, exec_nop s, rfl, rfl⟩
  | encodeFrame x => exact ⟨_, _, _, exec_encodeFrame x s, rfl, rfl⟩
  | decodeFrame f =>
    obtain ⟨st, d, h, hst⟩ := answerFrame_frameStatus (checksum f.body) f s
    exact ⟨st, d, s, (exec_decodeFrame f s).trans (congrArg _ h), rfl, hst⟩
  | txStart x =>
    cases ha : s.tx.active with
    | false => exact ⟨_, _, _, exec_txStart_idle x ha, rfl, by simp [answerStatus, ha]⟩
    | true => exact ⟨_, _, _, exec_txStart_busy x ha, rfl, by simp [answerStatus, ha]⟩
  | txNext =>
    cases ha : s.tx.active with
    | false => exact ⟨_, _, _, exec_txNext_idle ha, rfl, by simp [answerStatus, ha]⟩
    | true => exact ⟨_, _, _, exec_txNext_active ha rfl rfl, rfl, by simp [answerStatus, ha]⟩
  | rxByte b =>
    by_cases hi : s.rx.idx.toNat ≤ 5
    · exact ⟨_, _, _, exec_rxByte_pending hi rfl, rfl, if_pos hi⟩
    · obtain ⟨st, d, h, hst⟩ :=
        answerFrame_frameStatus s.rx.acc (frameOf s.rx.buf b) { s with rx := rxRestart s.rx }
      exact ⟨st, d, _, (exec_rxByte_full b hi).trans (congrArg _ h), rfl, (if_neg hi).trans hst⟩
  | rxClear => exact ⟨_, _, _, exec_rxClear s, rfl, rfl⟩
  | illegal w => exact ⟨_, _, _, exec_illegal w s, rfl, rfl⟩

theorem answersCode_iff_answerStatus (i : Instr) (s : State) (c : BitVec 4) :
    AnswersCode i s c ↔ (answerStatus s i).code = c := by
  obtain ⟨st, d, u, h, hu, rfl⟩ := exec_answerStatus i s
  exact answersCode_iff_of_responds h hu c

/-- A code stands for one status, so answering it is having that status. -/
theorem answersCode_code_iff (i : Instr) (s : State) (st : Status) :
    AnswersCode i s st.code ↔ answerStatus s i = st :=
  (answersCode_iff_answerStatus i s st.code).trans ⟨status_code_injective _ _, congrArg _⟩

/-! ## The cause of each status, first for the verdict on a frame, then for every command -/

@[simp] theorem frameStatus_eq_ok_iff (acc : Byte) (f : Frame) (s : State) :
    frameStatus acc f s = .ok ↔
      acc = f.checksum ∧ (s.config.syncCheck = false ∨ f.sync = s.sync) := by
  unfold frameStatus
  split_ifs <;> grind

@[simp] theorem frameStatus_eq_checksumMismatch_iff (acc : Byte) (f : Frame) (s : State) :
    frameStatus acc f s = .checksumMismatch ↔ acc ≠ f.checksum := by
  unfold frameStatus
  split_ifs <;> simp_all

@[simp] theorem frameStatus_eq_syncMismatch_iff (acc : Byte) (f : Frame) (s : State) :
    frameStatus acc f s = .syncMismatch ↔
      acc = f.checksum ∧ s.config.syncCheck = true ∧ f.sync ≠ s.sync := by
  unfold frameStatus
  split_ifs <;> grind

/-- The verdict on a frame is none of the other four statuses. -/
@[simp] theorem frameStatus_ne (acc : Byte) (f : Frame) (s : State) :
    frameStatus acc f s ≠ .rxPending ∧ frameStatus acc f s ≠ .txBusy ∧
      frameStatus acc f s ≠ .txIdle ∧ frameStatus acc f s ≠ .illegalOp := by
  unfold frameStatus
  split_ifs <;> decide

/-- An index that is no body byte's is the checksum byte's (10_state.md R26). -/
theorem StateInv.rxIdx_eq_six_iff {s : State} (h : StateInv s) :
    s.rx.idx.toNat = 6 ↔ ¬ s.rx.idx.toNat ≤ 5 := by
  have := h.rxIdx
  omega

@[simp] theorem frameOf_checksum (buf : FrameBuf) (b : Byte) : (frameOf buf b).checksum = b := rfl

@[simp] theorem frameOf_sync (buf : FrameBuf) (b : Byte) : (frameOf buf b).sync = buf[0] := rfl

theorem answerStatus_eq_ok_iff {s : State} (h : StateInv s) (i : Instr) :
    answerStatus s i = .ok ↔
      i = .nop ∨ (∃ x, i = .encodeFrame x) ∨
      (∃ f, i = .decodeFrame f ∧ checksum f.body = f.checksum ∧
        (s.config.syncCheck = false ∨ f.sync = s.sync)) ∨
      (∃ x, i = .txStart x ∧ s.tx.active = false) ∨
      (i = .txNext ∧ s.tx.active = true) ∨
      (∃ b, i = .rxByte b ∧ s.rx.idx.toNat = 6 ∧ s.rx.acc = b ∧
        (s.config.syncCheck = false ∨ s.rx.buf[0] = s.sync)) ∨
      i = .rxClear := by
  cases i with
  | rxByte b =>
    simp [answerStatus, ite_eq_iff, h.rxIdx_eq_six_iff, and_left_comm, eq_comm (a := b)]
  | _ => simp [answerStatus]

theorem answerStatus_eq_rxPending_iff (s : State) (i : Instr) :
    answerStatus s i = .rxPending ↔ ∃ b, i = .rxByte b ∧ s.rx.idx.toNat ≤ 5 := by
  cases i <;> simp [answerStatus, ite_eq_iff]

theorem answerStatus_eq_checksumMismatch_iff {s : State} (h : StateInv s) (i : Instr) :
    answerStatus s i = .checksumMismatch ↔
      (∃ f, i = .decodeFrame f ∧ checksum f.body ≠ f.checksum) ∨
      (∃ b, i = .rxByte b ∧ s.rx.idx.toNat = 6 ∧ s.rx.acc ≠ b) := by
  cases i <;> simp [answerStatus, ite_eq_iff, h.rxIdx_eq_six_iff]

theorem answerStatus_eq_syncMismatch_iff {s : State} (h : StateInv s) (i : Instr) :
    answerStatus s i = .syncMismatch ↔ s.config.syncCheck = true ∧
      ((∃ f, i = .decodeFrame f ∧ checksum f.body = f.checksum ∧ f.sync ≠ s.sync) ∨
       (∃ b, i = .rxByte b ∧ s.rx.idx.toNat = 6 ∧ s.rx.acc = b ∧ s.rx.buf[0] ≠ s.sync)) := by
  cases i with
  | rxByte b =>
    simp [answerStatus, ite_eq_iff, h.rxIdx_eq_six_iff, and_left_comm, eq_comm (a := b)]
  | _ => simp [answerStatus, ite_eq_iff, and_left_comm]

theorem answerStatus_eq_txBusy_iff (s : State) (i : Instr) :
    answerStatus s i = .txBusy ↔ ∃ x, i = .txStart x ∧ s.tx.active = true := by
  cases i <;> simp [answerStatus, ite_eq_iff]

theorem answerStatus_eq_txIdle_iff (s : State) (i : Instr) :
    answerStatus s i = .txIdle ↔ i = .txNext ∧ s.tx.active = false := by
  cases i <;> simp [answerStatus, ite_eq_iff]

theorem answerStatus_eq_illegalOp_iff (s : State) (i : Instr) :
    answerStatus s i = .illegalOp ↔ ∃ w, i = .illegal w := by
  cases i <;> simp [answerStatus, ite_eq_iff]

/-! ## The statements about errors (60_exceptions.md) -/

/-- Settles O10: a command always ends in its response, and the other two steps are total. -/
theorem everyStepHasANextState : Obligations.EveryStepHasANextState := by
  have hexec (i : Instr) (s : State) : ∃ t, exec i s = .next t := by
    obtain ⟨st, d, u, h, -⟩ := exec_responds i s
    exact ⟨_, h⟩
  refine ⟨hexec, fun s => ?_⟩
  match hin : s.inputs with
  | [] => exact ⟨_, step_nil hin⟩
  | .command w :: rest => exact step_command hin ▸ hexec (decode w) (takeInput s)
  | .reset :: rest => exact ⟨_, step_reset hin⟩

/-- Settles O53: each code names one status, and each status has one cause. -/
theorem whichCommandRaisesEachStatus : Obligations.WhichCommandRaisesEachStatus := by
  intro i s h
  have code := answersCode_code_iff i s
  refine ⟨(code .ok).trans (answerStatus_eq_ok_iff h i),
    (code .rxPending).trans (answerStatus_eq_rxPending_iff s i),
    (code .checksumMismatch).trans (answerStatus_eq_checksumMismatch_iff h i),
    (code .syncMismatch).trans (answerStatus_eq_syncMismatch_iff h i),
    (code .txBusy).trans (answerStatus_eq_txBusy_iff s i),
    (code .txIdle).trans (answerStatus_eq_txIdle_iff s i),
    (code .illegalOp).trans (answerStatus_eq_illegalOp_iff s i), fun c hc hans => ?_,
    fun t r he hr => (answersAreWellShaped i s t r he hr).2.2⟩
  have hle := status_code_le (answerStatus s i)
  rw [(answersCode_iff_answerStatus i s c).1 hans] at hle
  omega

/-- Settles O54: the five shapes a command's next state can have; only RX_BYTE at index 6 answers an
error with a channel moved. -/
theorem errorsArePrecise : Obligations.ErrorsArePrecise := by
  intro i s t r h he hr
  constructor
  · obtain ⟨st, d, e⟩ | ⟨x, -, -, e⟩ | ⟨-, -, e⟩ | ⟨b, -, -, e⟩ | ⟨st, d, ⟨b, hi, hidx⟩ | rfl, e⟩ :=
      exec_cases i s
    case inl => exact .inr (.inl (response_of_exec e rfl he hr).2)
    case inr.inl | inr.inr.inl | inr.inr.inr.inl =>
      rw [(response_of_exec e rfl he hr).1, statusField_responseWord]
      exact .inl (by decide)
    case inr.inr.inr.inr.inl => exact .inr (.inr ⟨b, hi, h.rxIdx_eq_six_iff.2 hidx⟩)
    case inr.inr.inr.inr.inr =>
      rw [(response_of_exec (exec_rxClear s) rfl he hr).1, statusField_responseWord]
      exact .inl (by decide)
  · rintro b rfl hidx
    obtain ⟨st, d, e, -⟩ := rxByte_verdict b (h.rxIdx_eq_six_iff.1 hidx)
    exact (response_of_exec e rfl he hr).2

/-- Settles O55: the first check that fails is reported, whatever the later ones would say. -/
theorem errorPriority : Obligations.ErrorPriority := by
  refine ⟨fun s t w rest hin hill hst => ?_, fun f s hc _ _ => decodeFrame_checksumMismatch hc,
    fun b s hidx hc _ _ => ?_,
    fun x s ha => (answersCode_iff (exec_txStart_busy x ha) _).2 rfl,
    fun s ha => (answersCode_iff (exec_txNext_idle ha) _).2 rfl⟩
  · rw [step_command hin, hill.elim (decode_reserved w) (decode_reservedOp w), exec_illegal] at hst
    cases hst
    rfl
  · obtain ⟨st, d, e, hbad, -⟩ := rxByte_verdict b (s := s) (by simp [hidx])
    obtain ⟨rfl, -⟩ := hbad hc
    exact (answersCode_iff_of_responds e rfl _).2 rfl

end Sys2Proof.Machine

namespace Sys2Proof.Machine

/-! ## Idle answers and the byte 0x00 (70_reset_and_hazards.md R187) -/

/-- At every legal index (10_state.md R26) the byte TX_NEXT emits is the one `TX_BUF` or the
accumulator holds for that index, so it is 0x00 when those are. -/
theorem txByte_eq_zero {c : TxChannel} (hle : c.idx.toNat ≤ 6)
    (hbody : ∀ k : Fin 6, c.idx.toNat = k.val → c.buf[k] = 0)
    (hchecksum : c.idx.toNat = 6 → c.acc = 0) : txByte c = 0 := by
  obtain hlt | h6 : c.idx.toNat < 6 ∨ c.idx.toNat = 6 := by omega
  · exact (txByte_at c ⟨_, hlt⟩ rfl).trans (hbody ⟨_, hlt⟩ rfl)
  · exact (txByte_of_six c (BitVec.eq_of_toNat_eq h6)).trans (hchecksum h6)

/-- Settles O56: TX_IDLE carries no data, and OK carries the byte 0x00 as the same data. -/
theorem onlyStatusTellsIdleFromByteZero : Obligations.OnlyStatusTellsIdleFromByteZero := by
  intro s t u v r q hidle hactive hbody hchecksum hle hs hr ht hq
  have hzero : txByte t.tx = 0 := txByte_eq_zero hle hbody hchecksum
  obtain rfl := (response_of_exec (exec_txNext_idle hidle) rfl hs hr).1
  obtain rfl := (response_of_exec (exec_txNext_active hactive hzero rfl) rfl ht hq).1
  simp only [dataField_responseWord, statusField_responseWord]
  decide

end Sys2Proof.Machine
